-- ==== Sys2Proof/Word.lean ====
section
/-! DEFINITION. The plainest types of the PE816: bytes, ticks, levels, directions and the numbers of its units
(spec 00 "Conventions", Table 0-4). -/

namespace Sys2Proof

/-- One byte on the link (R140). -/
abbrev Byte := BitVec 8

/-- A value of the 48-bit tick counter (R1): 0.1 µs a tick, wrapping at 2^48. -/
abbrev Tick := BitVec 48

/-- An axis, 0 to 7 (Table 0-4). -/
abbrev Axis := Fin 8

/-- An output line, OUT0 to OUT15 (Table 0-4). -/
abbrev LineNo := Fin 16

/-- A strobe input, STB0 to STB7 (Table 0-4). -/
abbrev StrobeNo := Fin 8

/-- A mark, 0 to 255 (Table 0-4, R27). -/
abbrev MarkId := Fin 256

/-- A mark group, 0 to 15 (Table 0-4, R30). -/
abbrev GroupNo := Fin 16

/-- The level of a pin, a filtered input or an output line. -/
inductive Level where
  | low
  | high
deriving DecidableEq, Repr

/-- The direction of a step (R20). The last direction NONE of an axis is the absence of one (R13). -/
inductive Direction where
  | up
  | down
deriving DecidableEq, Repr

namespace Level

/-- The opposite level (R88, R91). -/
def flip : Level → Level
  | .low => .high
  | .high => .low

end Level

namespace Direction

/-- UP and DOWN exchanged (R6, invert YES). -/
def flip : Direction → Direction
  | .up => .down
  | .down => .up

end Direction

/-- The eight axes in ascending order. -/
def allAxes : List Axis := [0, 1, 2, 3, 4, 5, 6, 7]

/-- The eight strobes in ascending order. -/
def allStrobes : List StrobeNo := [0, 1, 2, 3, 4, 5, 6, 7]

/-- The sixteen lines in ascending order. -/
def allLines : List LineNo := [0, 1, 2, 3, 4, 5, 6, 7, 8, 9, 10, 11, 12, 13, 14, 15]

end Sys2Proof
end

