-- ==== Sys2Proof/Syntax.lean ====
section
/-! DEFINITION. The rows of spec/opcode_table.json: the events the PE816 takes, one constructor each.
A row's operands are what the state does not already hold: the unit concerned, the levels read at a pin, the character
delivered. A host command carries none: its operands stand in the frame at the head of the inbound queue (R154). -/

namespace Sys2Proof

/-- What the part reads from its pins as a reset ends: the rate straps (R138), and the pin levels of the first sample
after the reset (Table 1-1, R99). Bit n of a set is HIGH when pin n is HIGH. -/
structure ResetPins where
  /-- The strap RATE1. -/
  rate1 : Level
  /-- The strap RATE0. -/
  rate0 : Level
  /-- The levels of ENCA0 to ENCA7. -/
  encA : BitVec 8
  /-- The levels of ENCB0 to ENCB7. -/
  encB : BitVec 8
  /-- The levels of ENCZ0 to ENCZ7. -/
  encZ : BitVec 8
  /-- The levels of STB0 to STB7. -/
  stb : BitVec 8
deriving DecidableEq, Repr

/-- The rows of spec/opcode_table.json. -/
inductive Instr where
  /-- HARD_RESET (R150): power-on or RSTN. -/
  | hardReset (pins : ResetPins)
  /-- FILTERED_SAMPLE (R5): a sample of an axis's pins at which a filtered level changes. -/
  | filteredSample (axis : Nat) (a b z : Level)
  /-- TIME_COUNT_EXPIRY (R10). -/
  | timeCountExpiry (axis : Nat)
  /-- STEP_ARRIVAL (R50): the Mark Scheduler takes the step arrival at the head of an axis's order, or goes on with the one of
  that axis it is taking (log entry 3). -/
  | stepArrival (axis : Nat)
  /-- JUMP_ARRIVAL (R62): the Mark Scheduler takes the jump arrival at the head of an axis's order. -/
  | jumpArrival (axis : Nat)
  /-- STROBE_EDGE (R100): a sample that reads the opposite of a strobe's present level. -/
  | strobeEdge (strobe : Nat)
  /-- STROBE_QUALIFICATION_EXPIRY (R102). -/
  | strobeQualificationExpiry (strobe : Nat)
  /-- STROBE_GROUP_ARM (R104): the Mark Scheduler takes the oldest group arm request. -/
  | strobeGroupArm
  /-- PULSE_END (R91). -/
  | pulseEnd (line : Nat)
  /-- ACK_TIMER_EXPIRY (R133, R134). -/
  | ackTimerExpiry
  /-- ACK_TIMEOUT_SIGNAL (R158). -/
  | ackTimeoutSignal
  /-- SILENCE_TIMER_EXPIRY (R157). -/
  | silenceTimerExpiry
  /-- HELLO_BEACON_EXPIRY (R153). -/
  | helloBeaconExpiry
  /-- CHARACTER_RECEIVED (R141): a character and its framing-error mark (R139). -/
  | characterReceived (value : Byte) (mark : Bool)
  /-- GAP_TIMER_EXPIRY (R142). -/
  | gapTimerExpiry
  /-- TX_TAKE_FRAME (R147). -/
  | txTakeFrame
  /-- TX_FRAME_DONE (R148); the pins matter only if it makes a command reset (R163). -/
  | txFrameDone (pins : ResetPins)
  /-- SYNC (R152). -/
  | sync
  /-- UNKNOWN_COMMAND (R156): an empty payload, or a code that names no command. -/
  | unknownCommand
  /-- PING (R159). -/
  | ping
  /-- GET_INFO (R159). -/
  | getInfo
  /-- SET_LINK (R160). -/
  | setLink
  /-- GET_STATUS (R161). -/
  | getStatus
  /-- GET_LINK_STATS (R162). -/
  | getLinkStats
  /-- MASK_REPORTS (R123). -/
  | maskReports
  /-- RESET_PART (R163). -/
  | resetPart
  /-- RUN (R118). -/
  | run
  /-- HOLD (R117). -/
  | hold
  /-- CONFIG_AXIS (R22). -/
  | configAxis
  /-- PRESET_AXIS (R23). -/
  | presetAxis
  /-- READ_AXES (R24). -/
  | readAxes
  /-- CLEAR_AXIS_FAULT (R25). -/
  | clearAxisFault
  /-- HOME_AXIS (R26). -/
  | homeAxis
  /-- DEFINE_MARK (R38, R39). -/
  | defineMark
  /-- DELETE_MARK (R40). -/
  | deleteMark
  /-- ARM_MARKS (R41). -/
  | armMarks
  /-- DISARM_MARKS (R42). -/
  | disarmMarks
  /-- ARM_GROUP (R43). -/
  | armGroup
  /-- DISARM_GROUP (R44). -/
  | disarmGroup
  /-- MOVE_MARK (R45, R46). -/
  | moveMark
  /-- READ_MARK (R48). -/
  | readMark
  /-- LIST_MARKS (R32). -/
  | listMarks
  /-- CONFIG_LINE (R93). -/
  | configLine
  /-- DRIVE_LINE (R94). -/
  | driveLine
  /-- READ_LINES (R96). -/
  | readLines
  /-- CONFIG_STROBE (R105). -/
  | configStrobe
  /-- READ_STROBES (R106). -/
  | readStrobes
  /-- CAPTURE_NOW (R111). -/
  | captureNow
  /-- READ_CAPTURES (R112). -/
  | readCaptures
  /-- FLUSH_CAPTURES (R113). -/
  | flushCaptures
  /-- PIN_SAMPLE (R5): a sample of an axis's pins at which no filtered level changes. -/
  | pinSample (axis : Nat) (a b z : Level)
  /-- START_BIT_CONFIRMED (R142). -/
  | startBitConfirmed
  /-- RXD_RETURNS_HIGH (R139). -/
  | rxdReturnsHigh
deriving DecidableEq, Repr

end Sys2Proof
end

