-- ==== Sys2Proof/Decode.lean ====
section
/-! DEFINITION. The reading of opcode-table words. The PE816 is a block: no row of spec/opcode_table.json gives bits
("n_rows_with_fixed": 0), so no word spells a command. Commands reach the part as frames on the serial link, which
Machine/Link.lean frames and Machine/Operands.lean reads. -/

namespace Sys2Proof

/-- The command a word spells by the table's bits: none, since no row of the table gives bits. -/
def decodeTableWord (_nbits _w : Nat) : Option Instr := none

end Sys2Proof
end

