-- ==== Sys2Proof/Config.lean ====
section
/-! DEFINITION. What the part fixes (capacities, codes, timer lengths) and the one free value of the model. -/

namespace Sys2Proof.Config

/-- The largest number of capture records (R107). -/
def captureCapacity : Nat := 128

/-- The largest number of report records that are not an unsent OVERFLOW record (R125). -/
def reportCapacity : Nat := 63

/-- The largest number of inbound entries (R145). -/
def inboundCapacity : Nat := 4

/-- The largest payload of a frame (R140). -/
def maxPayload : Nat := 240

/-- The room for capture records in a READ_CAPTURES reply, in bytes (R112). -/
def captureRoom : Nat := 235

/-- The largest number of entries of a LIST_MARKS reply (R32). -/
def listEntries : Nat := 38

/-- The largest value of every 16-bit counter the host reads (R7, R28, R90, R102, R126, R146). -/
def counterMax : Nat := 65535

/-- The largest step interval (R13) and the largest k of MARK_SKIPPED (R67). -/
def wideMax : Nat := 4294967295

/-- The lowest and the highest position of a LINEAR axis (00 "Positions"). -/
def linearMin : Int := -2147483648

@[inherit_doc linearMin]
def linearMax : Int := 2147483647

/-- The largest modulus of a ROTARY axis (Table 1-2). -/
def modulusMax : Nat := 16777216

/-- Ticks per µs and per ms (R2). -/
def ticksPerMicro : Nat := 10

@[inherit_doc ticksPerMicro]
def ticksPerMilli : Nat := 10000

/-- The length of the HELLO beacon timer, 500 ms, in ticks (R153). -/
def beaconTicks : Nat := 5000000

/-- The receiver's gap limit, 20 character times of ten bit times (R142), in bit times. -/
def gapBits : Nat := 200

/-- The bit times of one character (R138). -/
def characterBits : Nat := 10

/-- Ticks in one second (R1). -/
def ticksPerSecond : Nat := 10000000

/-- The start code of a frame (R140). -/
def startCode : Byte := 0xC3

/-- The family code (Table 11-4). -/
def familyCode : Byte := 0x21

/-- The part code 0x0816 (Table 11-4). -/
def partCode : Nat := 0x0816

/-- The deepest chain of REVS axes that a wrap can pass along: the eight axes (R11; R4 check 6 allows no cycle). -/
def revsDepth : Nat := 8

/-- FREE VALUE (DESIGN CHOICE, safe; log entry 5): the time remaining, in µs, that READ_LINES shows for a pulse whose
end tick has been reached and whose expiry is not yet taken. R96 gives the range 1 to 1,000,000 and a rounding rule
that would give 0 there. The arguments are a fresh number and the line. -/
opaque pulseRemainderAtEnd : Nat → Nat → Nat

/-- FREE VALUE (DESIGN CHOICE, unsafe; log entry 3): where a step arrival pauses and for how many ticks it waits there, read when the
block itself schedules its beginning with no pause listed. R71 lets the line requests of one arrival be taken at ticks that differ and
states no tick. The argument is a fresh number. -/
opaque arrivalPauses : Nat → List (Option Nat)

end Sys2Proof.Config
end

