-- ==== Sys2Proof/Machine/State.lean ====
section
/-! DEFINITION. The state of the PE816, block by block (spec 00 Table 0-1), as plain data, and its value after reset. -/

namespace Sys2Proof.Machine

/-! ## Axis Units (spec 01) -/

/-- Axis mode (Table 1-2). -/
inductive AxisMode where
  | off | quadX1 | quadX2 | quadX4 | stepDir | upDown | timebase | revs
deriving DecidableEq, Repr

/-- Axis kind (Table 1-2). -/
inductive AxisKind where
  | linear | rotary
deriving DecidableEq, Repr

/-- Index mode (Table 1-2, R18). -/
inductive IndexMode where
  | ignore | latch | homeOnce | homeEvery
deriving DecidableEq, Repr

/-- A direction qualifier, of an index (R17) or a mark (Table 2-1). -/
inductive Qualifier where
  | up | down | either
deriving DecidableEq, Repr

/-- Home state (Table 1-1, R19). -/
inductive HomeState where
  | notHomed | homeArmed | homed
deriving DecidableEq, Repr

/-- Fault kind of an AXIS_FAULT report (R16). -/
inductive FaultKind where
  | phase | limit
deriving DecidableEq, Repr

/-- Axis configuration record (Table 1-2). A field that does not apply holds its reset value (log entry 7). -/
structure AxisConfig where
  mode : AxisMode
  invert : Bool
  kind : AxisKind
  /-- M; has effect on a ROTARY axis only. -/
  modulus : Nat
  /-- The input filter f, in units of 0.1 µs. -/
  filter : Nat
  /-- Ticks per count, mode TIMEBASE. -/
  divisor : Nat
  /-- The revs source, mode REVS. -/
  source : Axis
  indexMode : IndexMode
  indexQual : Qualifier
  indexPreset : Int
  initial : Int
deriving DecidableEq, Repr

/-- One input pin of an Axis Unit: the level last sampled, the filtered level and the filter run count (R5). -/
structure PinFilter where
  pin : Level
  filtered : Level
  runCount : Nat
deriving DecidableEq, Repr

/-- The index latch: the position and the tick of the last index event (R18). -/
structure IndexLatch where
  pos : Int
  tick : Tick
deriving DecidableEq, Repr

/-- An arrival handed to the Mark Scheduler (R20, R21); its axis is the one whose order it stands in. -/
inductive Arrival where
  | step (pos : Int) (dir : Direction) (tick : Tick)
  | jump (pos : Int) (tick : Tick)
deriving DecidableEq, Repr

/-- The state of one Axis Unit (Table 1-1), with the arrivals it has handed on and the Mark Scheduler has not yet
taken, oldest first (R20). -/
structure AxisUnit where
  config : AxisConfig
  pos : Int
  /-- The last direction; none is NONE. -/
  lastDir : Option Direction
  lastStep : Option Tick
  interval : Option Nat
  phaseFlag : Bool
  limitFlag : Bool
  phaseErrors : Nat
  latch : Option IndexLatch
  home : HomeState
  a : PinFilter
  b : PinFilter
  z : PinFilter
  /-- The quadrature reference pair (R7). -/
  refA : Level
  refB : Level
  /-- The time count's end tick, mode TIMEBASE (R10). -/
  timeEnd : Option Tick
  arrivals : List Arrival
deriving DecidableEq, Repr

/-! ## Mark Scheduler and Action Unit (spec 02, 03, 04) -/

/-- The states of a defined mark (Table 2-1); an UNUSED mark is one the mark table does not list. -/
inductive MarkState where
  | disarmed | armed | rearming | spent
deriving DecidableEq, Repr

/-- A mark's kind with the fields that belong to it (Table 2-1). -/
inductive MarkKind where
  | once
  | repeating (band : Nat)
  | pitch (step : Nat) (base : Option Nat) (remaining : Option Nat)
deriving DecidableEq, Repr

/-- One entry of an action list (Table 4-1). -/
inductive Action where
  | pulse (line : LineNo) (level : Level) (width : Nat)
  | set (line : LineNo) (level : Level)
  | toggle (line : LineNo)
  | snapshot (mask : BitVec 8)
  | preset (axis : Axis) (value : Int)
  | armGroup (group : GroupNo)
  | disarmGroup (group : GroupNo)
deriving DecidableEq, Repr

/-- The record of a defined mark (Table 2-1). -/
structure Mark where
  id : MarkId
  state : MarkState
  axis : Axis
  kind : MarkKind
  qual : Qualifier
  base : Int
  target : Int
  group : GroupNo
  /-- The report flag. -/
  report : Bool
  actions : List Action
  fires : Nat
  lastFire : Option Tick
deriving DecidableEq, Repr

/-- Run state (R115). -/
inductive RunState where
  | hold | run
deriving DecidableEq, Repr

/-- Hold cause (R115). -/
inductive HoldCause where
  | reset | host | linkSilent | ackTimeout
deriving DecidableEq, Repr

/-- The arrival record, held while an arrival is being taken (R49). -/
structure ArrivalRecord where
  axis : Axis
  arrival : Arrival
  /-- The run state read when the arrival was taken. -/
  run : RunState
  /-- The ids of the fire list whose turn has not begun. -/
  fireList : List MarkId
  firing : Option MarkId
  /-- The marks disarmed since the fire list was built. -/
  disarmed : List MarkId
  /-- The position of this axis that a group arming of the arrival reads: the arrival's, until a PRESET entry of the arrival
  sets the axis (R59, R82; log entry 25). -/
  reads : Int
deriving DecidableEq, Repr

/-- The Mark Scheduler. -/
structure MarkScheduler where
  /-- The defined marks in ascending id order; every mark not listed is UNUSED (R27; log entry 13). -/
  marks : List Mark
  arrival : Option ArrivalRecord
  /-- Strobe group arm requests handed on and not yet taken, oldest first (R104). -/
  groupArms : List GroupNo
deriving DecidableEq, Repr

/-- A RUNNING action context (R70). -/
structure ActionContext where
  mark : MarkId
  tick : Tick
  list : List Action
  index : Nat
deriving DecidableEq, Repr

/-- Skip cause (Table 4-2). -/
inductive SkipCause where
  | lineNotMarkOwned | lineBusy | presetRange | axisOff | captureFull
deriving DecidableEq, Repr

/-! ## Output Line Unit (spec 05) -/

/-- Line owner (R85). -/
inductive Owner where
  | host | mark
deriving DecidableEq, Repr

/-- Collision policy (R90). -/
inductive Policy where
  | refuse | restart
deriving DecidableEq, Repr

/-- A pulse in flight: its level and its end tick (R89). -/
structure Pulse where
  level : Level
  endTick : Tick
deriving DecidableEq, Repr

/-- The state of one output line (Table 5-1). The pin OUTn is driven at `level` (R86). -/
structure Line where
  owner : Owner
  safe : Level
  policy : Policy
  level : Level
  pulse : Option Pulse
  collisions : Nat
deriving DecidableEq, Repr

/-! ## Strobe Unit and Capture Queue (spec 06) -/

/-- A strobe's edge (R100). -/
inductive Edge where
  | rising | falling
deriving DecidableEq, Repr

/-- Edge select (Table 6-1). -/
inductive EdgeSelect where
  | none | rising | falling | both
deriving DecidableEq, Repr

/-- Strobe configuration (Table 6-1). -/
structure StrobeConfig where
  edges : EdgeSelect
  /-- The qualification time q in µs. -/
  qual : Nat
  mask : BitVec 8
  armGroup : Option GroupNo
deriving DecidableEq, Repr

/-- A pending edge record and the end tick of its qualification timer (R101). -/
structure PendingEdge where
  edge : Edge
  tick : Tick
  positions : List Int
  endTick : Tick
deriving DecidableEq, Repr

/-- The state of one strobe (Table 6-1). -/
structure Strobe where
  config : StrobeConfig
  level : Level
  record : Option PendingEdge
  glitches : Nat
deriving DecidableEq, Repr

/-- The source of a capture, with its id and, for a strobe, its edge (Table 6-2). -/
inductive CaptureSource where
  | strobe (n : StrobeNo) (edge : Edge)
  | mark (id : MarkId)
  | host
deriving DecidableEq, Repr

/-- A capture record (Table 6-2). -/
structure Capture where
  source : CaptureSource
  gap : Bool
  tick : Tick
  mask : BitVec 8
  positions : List Int
deriving DecidableEq, Repr

/-- The Capture Queue (R107). -/
structure CaptureQueue where
  records : List Capture
  overrun : Bool
  gapPending : Bool
  waitingNotice : Bool
deriving DecidableEq, Repr

/-! ## Report Queue (spec 08) -/

/-- Report kind (R122). -/
inductive ReportKind where
  | markFired | markSkipped | actionSkipped | axisFault | indexSeen | capturesWaiting | captureOverrun
  | runState | overflow
deriving DecidableEq, Repr

/-- A report: its kind and payload (R122). -/
inductive Report where
  /-- R55. -/
  | markFired (id : MarkId) (axis : Axis) (pos : Int) (dir : Direction) (tick : Tick) (fires : Nat) (target : Int)
  /-- R67; `spent` is the outcome SPENT. -/
  | markSkipped (id : MarkId) (axis : Axis) (k : Nat) (spent : Bool) (target : Int) (remaining : Option Nat) (tick : Tick)
  /-- R72. -/
  | actionSkipped (id : MarkId) (entry : Nat) (cause : SkipCause) (tick : Tick)
  /-- R16. -/
  | axisFault (axis : Axis) (fault : FaultKind) (pos : Int) (tick : Tick) (errors : Nat)
  /-- R18. -/
  | indexSeen (axis : Axis) (before after : Int) (tick : Tick) (home : HomeState)
  /-- R108. -/
  | capturesWaiting (held : Nat) (tick : Tick)
  /-- R109. -/
  | captureOverrun (tick : Tick) (source : CaptureSource)
  /-- R120. -/
  | runState (state : RunState) (cause : HoldCause) (tick : Tick)
  /-- R126; kind code k is in the set when bit k is. -/
  | overflow (dropped : Nat) (kinds : BitVec 16) (lastDrop : Tick)
deriving DecidableEq, Repr

/-- Send state, with the sequence number of a sent record (Table 8-2). -/
inductive SendState where
  | unsent
  | awaiting (seq : Byte)
  | resend (seq : Byte)
deriving DecidableEq, Repr

/-- A report record (Table 8-2). -/
structure ReportRecord where
  body : Report
  send : SendState
  created : Tick
deriving DecidableEq, Repr

/-- The Report Queue (Table 8-1). -/
structure ReportQueue where
  records : List ReportRecord
  /-- The enable of the maskable kind with code k is bit k - 1 (R123, Table 11-12). -/
  mask : BitVec 7
  nextSeq : Byte
  retries : Nat
  /-- The acknowledgement timer's end tick. -/
  ackTimer : Option Tick
  exhausted : Bool
  /-- ACK_TIMEOUT signals raised and not yet taken by the Command Interpreter (R134, R158). -/
  signals : Nat
deriving DecidableEq, Repr

/-! ## Run Control (spec 07) -/

/-- Run Control (R115). -/
structure RunControl where
  state : RunState
  cause : HoldCause
deriving DecidableEq, Repr

/-! ## Link Receiver and Link Transmitter (spec 09) -/

/-- The link rate selected by the straps (R138). -/
inductive LinkRate where
  | bps115200 | bps1000000 | bps3000000 | bps6000000
deriving DecidableEq, Repr

/-- What the character receiver is doing (R139). -/
inductive RxLine where
  /-- It waits until RXD reads HIGH, after a reset or a framing error. -/
  | waitHigh
  /-- It watches for a start bit. -/
  | watching
  /-- A start bit is confirmed and the character is not yet delivered. -/
  | inCharacter
deriving DecidableEq, Repr

/-- Receiver state (R141). -/
inductive RxState where
  | hunt | header | payload | check
deriving DecidableEq, Repr

/-- Discard cause (R146). -/
inductive DiscardCause where
  | gap | length | framing | crc | kind | overrun
deriving DecidableEq, Repr

/-- The assembly buffer (R141). -/
structure Assembly where
  kind : Byte
  seq : Byte
  length : Byte
  payload : List Byte
  headerCount : Nat
  crcCount : Nat
  received : BitVec 16
  running : BitVec 16
  mark : Bool
deriving DecidableEq, Repr

/-- The kind of an inbound entry (R145). -/
inductive EntryKind where
  | command | sync
deriving DecidableEq, Repr

/-- An inbound entry (R145); its length is that of its payload. -/
structure Entry where
  kind : EntryKind
  seq : Byte
  payload : List Byte
deriving DecidableEq, Repr

/-- The six discard counters and the last discard cause, none being NONE (R146). -/
structure DiscardStats where
  gap : Nat
  length : Nat
  framing : Nat
  crc : Nat
  kind : Nat
  overrun : Nat
  last : Option DiscardCause
deriving DecidableEq, Repr

/-- The Link Receiver. -/
structure LinkReceiver where
  rate : LinkRate
  line : RxLine
  state : RxState
  buffer : Assembly
  /-- The gap timer: the tick at which it was last started, while it runs (R142). -/
  gapTimer : Option Tick
  inbound : List Entry
  stats : DiscardStats
deriving DecidableEq, Repr

/-- A REPLY: the sequence number of the command answered and the payload (R148, Table 10-2). -/
structure Reply where
  seq : Byte
  payload : List Byte
deriving DecidableEq, Repr

/-- The kinds of frame the part sends (R140). -/
inductive TxKind where
  | reply | report | hello
deriving DecidableEq, Repr

/-- A frame the part sends (R140). -/
structure TxFrame where
  kind : TxKind
  seq : Byte
  payload : List Byte
deriving DecidableEq, Repr

/-- SENDING: the frame on the line, the number of its bytes already sent (R147), and the tick at which it began. -/
structure Sending where
  frame : TxFrame
  sent : Nat
  started : Tick
deriving DecidableEq, Repr

/-- The Link Transmitter; `sending` absent is IDLE, `slot` absent is EMPTY (R147, R148). -/
structure LinkTransmitter where
  slot : Option Reply
  helloPending : Bool
  sending : Option Sending
deriving DecidableEq, Repr

/-! ## Command Interpreter (spec 10) -/

/-- Session state (R150). -/
inductive Session where
  | noSession | opened | lost
deriving DecidableEq, Repr

/-- Reset cause (R150). -/
inductive ResetCause where
  | hard | command
deriving DecidableEq, Repr

/-- The link parameters (Table 10-2); timeouts in ms. -/
structure LinkParams where
  silence : Nat
  ack : Nat
  retryLimit : Nat
  window : Nat
deriving DecidableEq, Repr

/-- The Command Interpreter (Table 10-2). -/
structure CommandInterpreter where
  session : Session
  epoch : Byte
  cache : Option Reply
  params : LinkParams
  silenceTimer : Option Tick
  beaconTimer : Option Tick
  resetCause : ResetCause
  /-- A command reset is due once the RESET_PART reply has left (R163). -/
  resetDue : Bool
deriving DecidableEq, Repr

/-! ## The whole part -/

/-- The state of the PE816: the tick counter, the twelve blocks of Table 0-1, and the model's own three fields:
the queue of waiting events, where STEP_ARRIVAL events pause, and the counter of free values. -/
structure State where
  /-- The events waiting, first in, first out (the model's own field). -/
  pending : List Instr
  /-- For each STEP_ARRIVAL event to come, how many stages of the arrival it takes before it leaves the arrival in progress; none,
  and every event the list does not reach, takes the arrival to its end. A pause of 0 stages that an idle step meets while an arrival is in
  progress is one tick between two stages. An idle step that schedules an arrival with none listed draws a free list (the model's own field; log entry
  3). -/
  pauses : List (Option Nat)
  /-- The 48-bit tick counter of the Time Base (R1). -/
  tick : Tick
  axes : Vector AxisUnit 8
  mks : MarkScheduler
  /-- The action context of the Action Unit; absent is IDLE (R70). -/
  acu : Option ActionContext
  lines : Vector Line 16
  strobes : Vector Strobe 8
  cpq : CaptureQueue
  rpq : ReportQueue
  rnc : RunControl
  lrx : LinkReceiver
  ltx : LinkTransmitter
  cmi : CommandInterpreter
  /-- The next fresh free value (the model's own field; log entry 5). -/
  freeIndex : Nat
deriving DecidableEq, Repr

/-- Why the model stops: an event that names a unit the part does not have. -/
inductive Fault where
  /-- Raised by an axis event whose axis is not 0 to 7 (Table 0-4). Safe: the part has no such pins. -/
  | noSuchAxis
  /-- Raised by a strobe event whose strobe is not 0 to 7 (Table 0-4). Safe: the part has no such pin. -/
  | noSuchStrobe
  /-- Raised by a line event whose line is not 0 to 15 (Table 0-4). Safe: the part has no such line. -/
  | noSuchLine
deriving DecidableEq, Repr

/-- Why the model refuses an event. -/
inductive Refusal where
  /-- Raised by exec for a row that has no meaning yet; no arm raises it. Safe. -/
  | notModelled (mnemonic : String)
deriving DecidableEq, Repr

/-! ## Reset (each block's reset rule) -/

/-- The level of bit n of a set of pin levels. -/
def pinLevel (pins : BitVec 8) (n : Nat) : Level := if pins.getLsbD n then .high else .low

/-- Table 1-2, "After reset". -/
def AxisConfig.reset : AxisConfig where
  mode := .off
  invert := false
  kind := .linear
  modulus := 2
  filter := 0
  divisor := 1
  source := 0
  indexMode := .ignore
  indexQual := .either
  indexPreset := 0
  initial := 0

/-- A pin whose filter has just been seeded from it (Table 1-1 note 1, R22). -/
def PinFilter.seeded (level : Level) : PinFilter := { pin := level, filtered := level, runCount := 0 }

/-- Table 1-1, "After reset", for the levels of the first sample. -/
def AxisUnit.reset (a b z : Level) : AxisUnit where
  config := .reset
  pos := 0
  lastDir := none
  lastStep := none
  interval := none
  phaseFlag := false
  limitFlag := false
  phaseErrors := 0
  latch := none
  home := .notHomed
  a := .seeded a
  b := .seeded b
  z := .seeded z
  refA := a
  refB := b
  timeEnd := none
  arrivals := []

/-- R27, R49, R68. -/
def MarkScheduler.reset : MarkScheduler := { marks := [], arrival := none, groupArms := [] }

/-- Table 5-1, "After reset". -/
def Line.reset : Line :=
  { owner := .host, safe := .low, policy := .refuse, level := .low, pulse := none, collisions := 0 }

/-- Table 6-1, "After reset", for the level of the first sample. -/
def Strobe.reset (level : Level) : Strobe where
  config := { edges := .none, qual := 0, mask := 0, armGroup := none }
  level := level
  record := none
  glitches := 0

/-- R107. -/
def CaptureQueue.reset : CaptureQueue :=
  { records := [], overrun := false, gapPending := false, waitingNotice := false }

/-- Table 8-1, "After reset" (R136). -/
def ReportQueue.reset : ReportQueue where
  records := []
  mask := BitVec.allOnes 7
  nextSeq := 0
  retries := 0
  ackTimer := none
  exhausted := false
  signals := 0

/-- R115. -/
def RunControl.reset : RunControl := { state := .hold, cause := .reset }

/-- The link rate of the straps (R138). -/
def LinkRate.ofStraps : Level → Level → LinkRate
  | .low, .low => .bps115200
  | .low, .high => .bps1000000
  | .high, .low => .bps3000000
  | .high, .high => .bps6000000

/-- The empty assembly buffer (R141); the running CRC stands at its start value (R140; log entry 16). -/
def Assembly.empty : Assembly where
  kind := 0
  seq := 0
  length := 0
  payload := []
  headerCount := 0
  crcCount := 0
  received := 0
  running := 0xFFFF
  mark := false

/-- R146. -/
def DiscardStats.reset : DiscardStats :=
  { gap := 0, length := 0, framing := 0, crc := 0, kind := 0, overrun := 0, last := none }

/-- R138, R141, R145, R146. -/
def LinkReceiver.reset (rate : LinkRate) : LinkReceiver where
  rate := rate
  line := .waitHigh
  state := .hunt
  buffer := .empty
  gapTimer := none
  inbound := []
  stats := .reset

/-- R147, R148: the entry into NO_SESSION at the reset calls for a HELLO. -/
def LinkTransmitter.reset : LinkTransmitter := { slot := none, helloPending := true, sending := none }

/-- Table 10-2, "After reset". -/
def CommandInterpreter.reset (cause : ResetCause) : CommandInterpreter where
  session := .noSession
  epoch := 0
  cache := none
  params := { silence := 2000, ack := 20, retryLimit := 4, window := 8 }
  silenceTimer := none
  beaconTimer := some (BitVec.ofNat 48 Config.beaconTicks)
  resetCause := cause
  resetDue := false

/-- Every block at its reset values (R150 and the reset rule of each chapter), with an empty queue. -/
def State.afterReset (cause : ResetCause) (pins : ResetPins) : State where
  pending := []
  pauses := []
  tick := 0
  axes := Vector.ofFn fun n =>
    AxisUnit.reset (pinLevel pins.encA n.val) (pinLevel pins.encB n.val) (pinLevel pins.encZ n.val)
  mks := .reset
  acu := none
  lines := Vector.replicate 16 .reset
  strobes := Vector.ofFn fun n => Strobe.reset (pinLevel pins.stb n.val)
  cpq := .reset
  rpq := .reset
  rnc := .reset
  lrx := .reset (.ofStraps pins.rate1 pins.rate0)
  ltx := .reset
  cmi := .reset cause
  freeIndex := 0

/-- The pins of State.reset: every pin and strap LOW (DESIGN CHOICE, unsafe; log entry 6). -/
def ResetPins.allLow : ResetPins := { rate1 := .low, rate0 := .low, encA := 0, encB := 0, encZ := 0, stb := 0 }

/-- The part right after a hard reset (R150), the pins of the first sample and the straps LOW. -/
def State.reset : State := State.afterReset .hard ResetPins.allLow

end Sys2Proof.Machine
end

