-- ==== Sys2Proof/Machine/Flags.lean ====
section
/-! DEFINITION. Counters, flags and timers: the saturating counters the host reads (00 "Counters"), tick arithmetic (R2),
the fault flags of an axis (R7, R15), the enables of the report mask (R123) and the discard counters (R146). -/

namespace Sys2Proof.Machine

/-- One more on a 16-bit counter, which stays at 65,535 once it is there (00 "Counters"). -/
def bump (n : Nat) : Nat := min (n + 1) Config.counterMax

/-- The end tick of a timer started at `t` with a length of `d` ticks (R2). -/
def endTick (t : Tick) (d : Nat) : Tick := t + BitVec.ofNat 48 d

/-- The time from the earlier tick `b` to the later tick `a`, in ticks (R2). -/
def elapsed (a b : Tick) : Nat := (a - b).toNat

/-- A timer expires when the counter reaches its end tick; a stopped timer does not (R2). -/
def due (timer : Option Tick) (now : Tick) : Bool := timer == some now

/-! ### Report kinds -/

/-- Report kind codes (Table 11-12). -/
def ReportKind.code : ReportKind → Nat
  | .markFired => 1
  | .markSkipped => 2
  | .actionSkipped => 3
  | .axisFault => 4
  | .indexSeen => 5
  | .capturesWaiting => 6
  | .captureOverrun => 7
  | .runState => 8
  | .overflow => 9

/-- The kind of a report. -/
def Report.kind : Report → ReportKind
  | .markFired .. => .markFired
  | .markSkipped .. => .markSkipped
  | .actionSkipped .. => .actionSkipped
  | .axisFault .. => .axisFault
  | .indexSeen .. => .indexSeen
  | .capturesWaiting .. => .capturesWaiting
  | .captureOverrun .. => .captureOverrun
  | .runState .. => .runState
  | .overflow .. => .overflow

/-- The set of one report kind: the term 2^k for kind code k (R164). -/
def ReportKind.term (k : ReportKind) : BitVec 16 := BitVec.twoPow 16 k.code

/-- A kind is enabled by its bit of the mask; RUN_STATE and OVERFLOW have none and are always enabled (R123). -/
def ReportKind.enabled (k : ReportKind) (mask : BitVec 7) : Bool :=
  match k with
  | .runState | .overflow => true
  | .markFired | .markSkipped | .actionSkipped | .axisFault | .indexSeen | .capturesWaiting | .captureOverrun =>
    mask.getLsbD (k.code - 1)

/-- The mask as a report kind set; the terms of RUN_STATE and OVERFLOW are always present (Table 11-12 note 2). -/
def maskSet (mask : BitVec 7) : BitVec 16 := (mask.setWidth 16 <<< 1) ||| 0x0300

/-- The enables that a report kind set gives the maskable kinds (R123). -/
def maskOfSet (kinds : BitVec 16) : BitVec 7 := (kinds >>> 1).setWidth 7

/-! ### Discard counters -/

/-- One discard: its counter is incremented, and it is the last discard cause (R146). -/
def DiscardStats.count (d : DiscardStats) (cause : DiscardCause) : DiscardStats :=
  match cause with
  | .gap => { d with gap := bump d.gap, last := some .gap }
  | .length => { d with length := bump d.length, last := some .length }
  | .framing => { d with framing := bump d.framing, last := some .framing }
  | .crc => { d with crc := bump d.crc, last := some .crc }
  | .kind => { d with kind := bump d.kind, last := some .kind }
  | .overrun => { d with overrun := bump d.overrun, last := some .overrun }

/-! ### Sets of axes -/

/-- The axes of a mask, in ascending order (00 "Identifiers"). -/
def maskAxes (mask : BitVec 8) : List Axis := allAxes.filter fun n => mask.getLsbD n.val

/-- The mask of the axes for which `p` holds. -/
def axisSet (p : Axis → Bool) : BitVec 8 :=
  allAxes.foldl (fun acc n => if p n then acc ||| BitVec.twoPow 8 n.val else acc) 0

end Sys2Proof.Machine
end

