-- ==== Sys2Proof/Machine/Operands.lean ====
section
/-! DEFINITION. The operands of the host's commands: little-endian values (R164), the codes of the enumerations a command
carries (Table 11-12), and the operand forms with several fields (Table 11-2, Table 11-3), read with the checks of R4, R38
and R165. -/

namespace Sys2Proof.Machine

/-! ### Values -/

/-- A 16-bit unsigned field, low byte first (R164). -/
def le16 (b0 b1 : Byte) : Nat := (b1 ++ b0).toNat

/-- A 32-bit unsigned field, low byte first (R164). -/
def le32 (b0 b1 b2 b3 : Byte) : Nat := (b3 ++ b2 ++ b1 ++ b0).toNat

/-- A 32-bit two's complement field, low byte first (R164). -/
def leInt (b0 b1 b2 b3 : Byte) : Int := (b3 ++ b2 ++ b1 ++ b0).toInt

/-! ### Identifiers -/

/-- An axis number (Table 0-4). -/
def axisOf (b : Byte) : Option Axis := if h : b.toNat < 8 then some ⟨b.toNat, h⟩ else none

/-- A line number (Table 0-4). -/
def lineOf (b : Byte) : Option LineNo := if h : b.toNat < 16 then some ⟨b.toNat, h⟩ else none

/-- A strobe number (Table 0-4). -/
def strobeOf (b : Byte) : Option StrobeNo := if h : b.toNat < 8 then some ⟨b.toNat, h⟩ else none

/-- A mark group (Table 0-4). -/
def groupOf (b : Byte) : Option GroupNo := if h : b.toNat < 16 then some ⟨b.toNat, h⟩ else none

/-- A mark id: every byte is one (R27). -/
def markOf (b : Byte) : MarkId := b.toFin

/-! ### Enumerations -/

/-- NO/YES fields (Table 11-12). -/
def flagOf (b : Byte) : Option Bool :=
  match b.toNat with
  | 0 => some false
  | 1 => some true
  | _ => none

@[inherit_doc AxisMode]
def AxisMode.ofByte (b : Byte) : Option AxisMode :=
  match b.toNat with
  | 0 => some .off
  | 1 => some .quadX1
  | 2 => some .quadX2
  | 3 => some .quadX4
  | 4 => some .stepDir
  | 5 => some .upDown
  | 6 => some .timebase
  | 7 => some .revs
  | _ => none

@[inherit_doc AxisKind]
def AxisKind.ofByte (b : Byte) : Option AxisKind :=
  match b.toNat with
  | 0 => some .linear
  | 1 => some .rotary
  | _ => none

@[inherit_doc IndexMode]
def IndexMode.ofByte (b : Byte) : Option IndexMode :=
  match b.toNat with
  | 0 => some .ignore
  | 1 => some .latch
  | 2 => some .homeOnce
  | 3 => some .homeEvery
  | _ => none

@[inherit_doc Qualifier]
def Qualifier.ofByte (b : Byte) : Option Qualifier :=
  match b.toNat with
  | 1 => some .up
  | 2 => some .down
  | 3 => some .either
  | _ => none

@[inherit_doc Level]
def levelOf (b : Byte) : Option Level :=
  match b.toNat with
  | 0 => some .low
  | 1 => some .high
  | _ => none

@[inherit_doc Owner]
def Owner.ofByte (b : Byte) : Option Owner :=
  match b.toNat with
  | 0 => some .host
  | 1 => some .mark
  | _ => none

@[inherit_doc Policy]
def Policy.ofByte (b : Byte) : Option Policy :=
  match b.toNat with
  | 0 => some .refuse
  | 1 => some .restart
  | _ => none

@[inherit_doc EdgeSelect]
def EdgeSelect.ofByte (b : Byte) : Option EdgeSelect :=
  match b.toNat with
  | 0 => some .none
  | 1 => some .rising
  | 2 => some .falling
  | 3 => some .both
  | _ => none

/-- The arm group of CONFIG_STROBE: 0 to 15, or 0xFF for none (R165). -/
def armGroupOf (b : Byte) : Option (Option GroupNo) :=
  if b = 0xFF then some none else (groupOf b).map some

/-! ### Axis configuration -/

/-- A position lies in the axis range (Table 1-2 note 1). -/
def AxisConfig.inRange (c : AxisConfig) (v : Int) : Bool :=
  match c.kind with
  | .linear => decide (Config.linearMin ≤ v) && decide (v ≤ Config.linearMax)
  | .rotary => decide (0 ≤ v) && decide (v < c.modulus)

/-- The index mode uses the index preset value (Table 1-2). -/
def IndexMode.presets : IndexMode → Bool
  | .homeOnce | .homeEvery => true
  | .ignore | .latch => false

/-- The operands of CONFIG_AXIS after the axis number, as Table 11-2 lays them out. -/
structure AxisFields where
  mode : Byte
  invert : Byte
  kind : Byte
  modulus : Nat
  filter : Nat
  divisor : Nat
  source : Byte
  indexMode : Byte
  indexQual : Byte
  indexPreset : Int
  initial : Int
deriving DecidableEq, Repr

/-- The kind, modulus and initial position of a new record, checked (R4 checks 2 and 3); every other field at its
reset value. -/
def AxisFields.range (f : AxisFields) : Option AxisConfig := do
  let kind ← AxisKind.ofByte f.kind
  let modulus ←
    match kind with
    | .linear => some AxisConfig.reset.modulus
    | .rotary => if 2 ≤ f.modulus ∧ f.modulus ≤ Config.modulusMax then some f.modulus else none
  let c : AxisConfig := { AxisConfig.reset with kind := kind, modulus := modulus, initial := f.initial }
  if c.inRange f.initial then some c else none

/-- A new configuration record with the field checks of R4 (checks 2, 3 and 4): a field that does not apply is not checked
and holds its reset value (Table 1-2 note 2; log entry 7). -/
def AxisFields.config (f : AxisFields) : Option AxisConfig := do
  let mode ← AxisMode.ofByte f.mode
  let c ← f.range
  if mode = .off then return { c with mode := mode }
  let invert ← flagOf f.invert
  let filter ← if f.filter ≤ 15 then some f.filter else none
  let divisor ←
    if mode = .timebase then (if 1 ≤ f.divisor ∧ f.divisor ≤ 65535 then some f.divisor else none)
    else some c.divisor
  let source ← if mode = .revs then axisOf f.source else some c.source
  let indexMode ← IndexMode.ofByte f.indexMode
  let indexQual ← Qualifier.ofByte f.indexQual
  let indexPreset ←
    if indexMode.presets then (if c.inRange f.indexPreset then some f.indexPreset else none)
    else some c.indexPreset
  return { c with mode, invert, filter, divisor, source, indexMode, indexQual, indexPreset }

/-! ### Marks -/

/-- An action entry of seven bytes (Table 11-3) with the checks of Table 2-3; operands a kind does not use are not
read (R165, R166). -/
def actionOf (kind first second : Byte) (value : Nat) (signed : Int) : Option Action :=
  match kind.toNat with
  | 1 => do
    let line ← lineOf first
    let level ← levelOf second
    if 1 ≤ value ∧ value ≤ 1000000 then some (.pulse line level value) else none
  | 2 => do
    let line ← lineOf first
    let level ← levelOf second
    some (.set line level)
  | 3 => (lineOf first).map .toggle
  | 4 => if first = 0 then none else some (.snapshot first)
  | 5 => (axisOf first).map fun axis => .preset axis signed
  | 6 => (groupOf first).map .armGroup
  | 7 => (groupOf first).map .disarmGroup
  | _ => none

/-- An action list, entry by entry (Table 11-3). -/
def actionsOf : List Byte → Option (List Action)
  | [] => some []
  | k :: o1 :: o2 :: v0 :: v1 :: v2 :: v3 :: rest => do
    let a ← actionOf k o1 o2 (le32 v0 v1 v2 v3) (leInt v0 v1 v2 v3)
    let as ← actionsOf rest
    some (a :: as)
  | _ => none

/-- The operands of DEFINE_MARK after the id, as Table 11-2 lays them out. -/
structure MarkFields where
  axis : Byte
  kind : Byte
  qual : Byte
  base : Int
  group : Byte
  report : Byte
  band : Nat
  step : Nat
  count : Nat
  entryCount : Nat
  entries : List Byte
deriving DecidableEq, Repr

/-- The kind of the mark with its own fields (R38 checks 1, 2, 4, 5 and 6), judged on the configuration of its axis. A base
count of 0 is the absence of one (Table 11-2 note 2). -/
def MarkFields.markKind (f : MarkFields) (c : AxisConfig) (qual : Qualifier) : Option MarkKind :=
  match f.kind.toNat with
  | 1 => some .once
  | 2 => if 1 ≤ f.band ∧ f.band ≤ 65535 then some (.repeating f.band) else none
  | 3 =>
    let top := match c.kind with
      | .linear => 16777215
      | .rotary => c.modulus - 1
    let count := if f.count = 0 then none else some f.count
    if qual ≠ .either ∧ 1 ≤ f.step ∧ f.step ≤ top ∧ f.count ≤ 65535 then some (.pitch f.step count count) else none
  | _ => none

/-- The record DEFINE_MARK makes, DISARMED (R39), with the checks of R38; `config` gives each axis's configuration. -/
def MarkFields.mark (f : MarkFields) (id : MarkId) (config : Axis → AxisConfig) : Option Mark := do
  let axis ← axisOf f.axis
  let c := config axis
  let qual ← Qualifier.ofByte f.qual
  let kind ← f.markKind c qual
  let group ← groupOf f.group
  let report ← flagOf f.report
  let actions ← if f.entryCount ≤ 4 then actionsOf f.entries else none
  if c.inRange f.base then
    some { id, state := .disarmed, axis, kind, qual, base := f.base, target := f.base, group, report, actions,
           fires := 0, lastFire := none }
  else none

/-- The form of MOVE_MARK: true is RELATIVE (Table 11-12). -/
def moveFormOf (b : Byte) : Option Bool := flagOf b

/-! ### Lines -/

/-- What DRIVE_LINE asks of a line (R94); an action asks the same of a line (R73, R74). -/
inductive LineRequest where
  | set (level : Level)
  | toggle
  | pulse (level : Level) (width : Nat)
deriving DecidableEq, Repr

/-- The operation of DRIVE_LINE with its operands (R94 check 1; R165: the level and width of an operation that does not use
them are not checked). -/
def lineRequestOf (operation level : Byte) (width : Nat) : Option LineRequest :=
  match operation.toNat with
  | 1 => (levelOf level).map .set
  | 2 => some .toggle
  | 3 => (levelOf level).bind fun l => if 1 ≤ width ∧ width ≤ 1000000 then some (.pulse l width) else none
  | _ => none

end Sys2Proof.Machine
end

