-- ==== Sys2Proof/Machine/Wire.lean ====
section
/-! DEFINITION. Every byte the part sends (spec 11): values, enumeration codes, records, report and HELLO payloads, and the
frame with its CRC (R140). -/

namespace Sys2Proof.Machine

/-! ### Values (R164) -/

/-- A one-byte unsigned field. -/
def put8 (n : Nat) : List Byte := [BitVec.ofNat 8 n]

/-- A two-byte field, low byte first. -/
def putBits16 (w : BitVec 16) : List Byte := [w.setWidth 8, (w >>> 8).setWidth 8]

/-- A two-byte unsigned field, low byte first. -/
def put16 (n : Nat) : List Byte := putBits16 (BitVec.ofNat 16 n)

/-- A four-byte field, low byte first. -/
def putBits32 (w : BitVec 32) : List Byte :=
  [w.setWidth 8, (w >>> 8).setWidth 8, (w >>> 16).setWidth 8, (w >>> 24).setWidth 8]

/-- A four-byte unsigned field, low byte first. -/
def put32 (n : Nat) : List Byte := putBits32 (BitVec.ofNat 32 n)

/-- A position: four bytes, two's complement, low byte first. -/
def putPos (p : Int) : List Byte := putBits32 (BitVec.ofInt 32 p)

/-- A tick: six bytes, low byte first. -/
def putTick (t : Tick) : List Byte :=
  [t.setWidth 8, (t >>> 8).setWidth 8, (t >>> 16).setWidth 8, (t >>> 24).setWidth 8, (t >>> 32).setWidth 8,
   (t >>> 40).setWidth 8]

/-- A NO/YES field. -/
def putFlag (b : Bool) : List Byte := [if b then 1 else 0]

/-- A tick that may be absent, sent as 0 (R166). -/
def putTickOpt : Option Tick → List Byte
  | none => putTick 0
  | some t => putTick t

/-! ### Enumeration codes (Table 11-12) -/

@[inherit_doc Level]
def Level.code : Level → Nat
  | .low => 0
  | .high => 1

@[inherit_doc Direction]
def Direction.code : Direction → Nat
  | .up => 1
  | .down => 2

/-- A last direction; NONE is 0. -/
def lastDirCode : Option Direction → Nat
  | none => 0
  | some d => Direction.code d

@[inherit_doc Qualifier]
def Qualifier.code : Qualifier → Nat
  | .up => 1
  | .down => 2
  | .either => 3

@[inherit_doc HomeState]
def HomeState.code : HomeState → Nat
  | .notHomed => 0
  | .homeArmed => 1
  | .homed => 2

@[inherit_doc FaultKind]
def FaultKind.code : FaultKind → Nat
  | .phase => 1
  | .limit => 2

@[inherit_doc MarkKind]
def MarkKind.code : MarkKind → Nat
  | .once => 1
  | .repeating _ => 2
  | .pitch _ _ _ => 3

/-- The state of a defined mark. -/
def MarkState.code : MarkState → Nat
  | .disarmed => 1
  | .armed => 2
  | .rearming => 3
  | .spent => 4

/-- The state of a mark; UNUSED is 0. -/
def markStateCode : Option MarkState → Nat
  | none => 0
  | some st => st.code

@[inherit_doc SkipCause]
def SkipCause.code : SkipCause → Nat
  | .lineNotMarkOwned => 1
  | .lineBusy => 2
  | .presetRange => 3
  | .axisOff => 4
  | .captureFull => 5

@[inherit_doc Owner]
def Owner.code : Owner → Nat
  | .host => 0
  | .mark => 1

@[inherit_doc Policy]
def Policy.code : Policy → Nat
  | .refuse => 0
  | .restart => 1

@[inherit_doc EdgeSelect]
def EdgeSelect.code : EdgeSelect → Nat
  | .none => 0
  | .rising => 1
  | .falling => 2
  | .both => 3

/-- Capture source kind. -/
def CaptureSource.code : CaptureSource → Nat
  | .strobe _ _ => 1
  | .mark _ => 2
  | .host => 3

/-- Source id; that of a HOST record is sent as 0 (R166). -/
def CaptureSource.id : CaptureSource → Nat
  | .strobe n _ => n.val
  | .mark m => m.val
  | .host => 0

@[inherit_doc RunState]
def RunState.code : RunState → Nat
  | .hold => 0
  | .run => 1

@[inherit_doc HoldCause]
def HoldCause.code : HoldCause → Nat
  | .reset => 0
  | .host => 1
  | .linkSilent => 2
  | .ackTimeout => 3

@[inherit_doc Session]
def Session.code : Session → Nat
  | .noSession => 0
  | .opened => 1
  | .lost => 2

@[inherit_doc ResetCause]
def ResetCause.code : ResetCause → Nat
  | .hard => 0
  | .command => 1

@[inherit_doc LinkRate]
def LinkRate.code : LinkRate → Nat
  | .bps115200 => 0
  | .bps1000000 => 1
  | .bps3000000 => 2
  | .bps6000000 => 3

/-- Discard cause; NONE is 0. -/
def discardCode : Option DiscardCause → Nat
  | none => 0
  | some .gap => 1
  | some .length => 2
  | some .framing => 3
  | some .crc => 4
  | some .kind => 5
  | some .overrun => 6

/-- An arm group; none is 0xFF (R166). -/
def armGroupCode : Option GroupNo → Nat
  | none => 0xFF
  | some g => g.val

/-- The statuses of a REPLY (Table 10-4). -/
inductive Status where
  | ok | unknownCommand | badLength | badArgument | noSession | sessionLost | markActive | markUnused | markSpent
  | axisBusy | inUse | notOwner | lineBusy | full
deriving DecidableEq, Repr

@[inherit_doc Status]
def Status.code : Status → Nat
  | .ok => 0
  | .unknownCommand => 1
  | .badLength => 2
  | .badArgument => 3
  | .noSession => 4
  | .sessionLost => 5
  | .markActive => 6
  | .markUnused => 7
  | .markSpent => 8
  | .axisBusy => 9
  | .inUse => 10
  | .notOwner => 11
  | .lineBusy => 12
  | .full => 13

/-- Per-mark results of ARM_MARKS and DISARM_MARKS (R33, R37). -/
inductive MarkResult where
  | ok | markUnused | alreadyArmed | outOfRange
deriving DecidableEq, Repr

@[inherit_doc MarkResult]
def MarkResult.code : MarkResult → Nat
  | .ok => 0
  | .markUnused => 1
  | .alreadyArmed => 2
  | .outOfRange => 3

/-! ### Records -/

/-- Capacities, ten bytes (Table 11-9). -/
def putCapacities : List Byte :=
  put8 8 ++ put16 256 ++ put8 16 ++ put8 16 ++ put8 8 ++ put8 128 ++ put8 64 ++ put8 4 ++ put8 8

/-- The flags of an axis entry (Table 11-5). -/
def axisFlags (u : AxisUnit) : Nat :=
  (if u.phaseFlag then 1 else 0) + (if u.limitFlag then 2 else 0) + (if u.interval.isSome then 4 else 0)
    + (if u.latch.isSome then 8 else 0)

/-- An axis entry of READ_AXES, 23 bytes (Table 11-5). -/
def putAxis (u : AxisUnit) : List Byte :=
  putPos u.pos ++ put8 (lastDirCode u.lastDir) ++ put8 (axisFlags u) ++ put32 (u.interval.getD 0)
    ++ put16 u.phaseErrors ++ put8 u.home.code ++ putPos ((u.latch.map (·.pos)).getD 0)
    ++ putTickOpt (u.latch.map (·.tick))

/-- An action entry, seven bytes (Table 11-3); unused operand bytes are 0 (R166). -/
def putAction : Action → List Byte
  | .pulse line level width => put8 1 ++ put8 line.val ++ put8 (Level.code level) ++ put32 width
  | .set line level => put8 2 ++ put8 line.val ++ put8 (Level.code level) ++ put32 0
  | .toggle line => put8 3 ++ put8 line.val ++ put8 0 ++ put32 0
  | .snapshot mask => put8 4 ++ [mask] ++ put8 0 ++ put32 0
  | .preset axis value => put8 5 ++ put8 axis.val ++ put8 0 ++ putPos value
  | .armGroup group => put8 6 ++ put8 group.val ++ put8 0 ++ put32 0
  | .disarmGroup group => put8 7 ++ put8 group.val ++ put8 0 ++ put32 0

/-- The band of a mark, 0 unless REPEAT (R166). -/
def MarkKind.bandField : MarkKind → Nat
  | .repeating h => h
  | .once | .pitch _ _ _ => 0

/-- The pitch of a mark, 0 unless PITCH (R166). -/
def MarkKind.stepField : MarkKind → Nat
  | .pitch st _ _ => st
  | .once | .repeating _ => 0

/-- The base count, absent unless a PITCH mark has one. -/
def MarkKind.baseCount : MarkKind → Option Nat
  | .pitch _ base _ => base
  | .once | .repeating _ => none

/-- The remaining count, absent unless a PITCH mark has one. -/
def MarkKind.remaining : MarkKind → Option Nat
  | .pitch _ _ remaining => remaining
  | .once | .repeating _ => none

/-- The presence byte of a defined mark (Table 11-6). -/
def Mark.presence (m : Mark) : Nat :=
  1 + (if m.kind.baseCount.isSome then 2 else 0) + (if m.kind.remaining.isSome then 4 else 0)
    + (if m.lastFire.isSome then 8 else 0)

/-- A mark record of READ_MARK (Table 11-6); an UNUSED mark sends 0 in every field from offset 2 on (R166). -/
def putMark (id : MarkId) : Option Mark → List Byte
  | none => put8 id.val ++ List.replicate 34 0
  | some m =>
    put8 id.val ++ put8 m.state.code ++ put8 m.presence ++ put8 m.axis.val ++ put8 m.kind.code ++ put8 m.qual.code
      ++ putPos m.base ++ putPos m.target ++ put8 m.group.val ++ putFlag m.report ++ put16 m.kind.bandField
      ++ put32 m.kind.stepField ++ put16 (m.kind.baseCount.getD 0) ++ put16 (m.kind.remaining.getD 0) ++ put16 m.fires
      ++ putTickOpt m.lastFire ++ put8 m.actions.length ++ m.actions.flatMap putAction

/-- The flags of a capture record (Table 11-7). -/
def captureFlags (c : Capture) : Nat :=
  (if c.gap then 1 else 0)
    + (match c.source with
      | .strobe _ .rising => 2
      | .strobe _ .falling => 6
      | .mark _ | .host => 0)

/-- A capture record, 10 + 4k bytes (Table 11-7). -/
def putCapture (c : Capture) : List Byte :=
  put8 c.source.code ++ put8 c.source.id ++ put8 (captureFlags c) ++ putTick c.tick ++ [c.mask]
    ++ c.positions.flatMap putPos

/-- The bytes a capture record takes (R112). -/
def Capture.size (c : Capture) : Nat := 10 + 4 * c.positions.length

/-! ### Reports and HELLO (11.4) -/

/-- A report's fields from offset 7 (Table 11-8). -/
def putReport : Report → List Byte
  | .markFired id axis pos dir tick fires target =>
    put8 id.val ++ put8 axis.val ++ putPos pos ++ put8 (Direction.code dir) ++ putTick tick ++ put16 fires
      ++ putPos target
  | .markSkipped id axis k spent target remaining tick =>
    put8 id.val ++ put8 axis.val ++ put32 k ++ putFlag spent ++ putPos target ++ putFlag remaining.isSome
      ++ put16 (remaining.getD 0) ++ putTick tick
  | .actionSkipped id entry cause tick => put8 id.val ++ put8 entry ++ put8 cause.code ++ putTick tick
  | .axisFault axis fault pos tick errors =>
    put8 axis.val ++ put8 fault.code ++ putPos pos ++ putTick tick ++ put16 errors
  | .indexSeen axis before after tick home =>
    put8 axis.val ++ putPos before ++ putPos after ++ putTick tick ++ put8 home.code
  | .capturesWaiting held tick => put8 held ++ putTick tick
  | .captureOverrun tick source => putTick tick ++ put8 source.code ++ put8 source.id
  | .runState state cause tick => put8 state.code ++ put8 cause.code ++ putTick tick
  | .overflow dropped kinds lastDrop => put16 dropped ++ putBits16 kinds ++ putTick lastDrop

/-- A REPORT payload: kind, creation tick, the kind's fields (11.4). -/
def reportPayload (r : ReportRecord) : List Byte :=
  put8 r.body.kind.code ++ putTick r.created ++ putReport r.body

/-- A HELLO payload, 18 bytes (11.4, R153). -/
def helloPayload (c : CommandInterpreter) (r : RunControl) : List Byte :=
  put8 c.resetCause.code ++ [c.epoch] ++ put8 c.session.code ++ put8 r.state.code ++ put8 r.cause.code
    ++ [Config.familyCode] ++ put16 Config.partCode ++ putCapacities

/-! ### Frames (R140) -/

/-- One bit entered into the CRC register: polynomial 0x1021, not reflected (R140). -/
def crcBit (crc : BitVec 16) (bit : Bool) : BitVec 16 :=
  if crc.msb != bit then (crc <<< 1) ^^^ 0x1021#16 else crc <<< 1

/-- One byte entered into the CRC register, most significant bit first (R140). -/
def crcByte (crc : BitVec 16) (b : Byte) : BitVec 16 :=
  [7, 6, 5, 4, 3, 2, 1, 0].foldl (fun c n => crcBit c (b.getLsbD n)) crc

/-- The CRC of a list of bytes, the register starting at 0xFFFF (R140). -/
def crcOf (bytes : List Byte) : BitVec 16 := bytes.foldl crcByte 0xFFFF#16

/-- The frame kind codes of host and part (Table 11-12). -/
def commandCode : Byte := 0x01

@[inherit_doc commandCode]
def ackCode : Byte := 0x02

@[inherit_doc commandCode]
def syncCode : Byte := 0x03

@[inherit_doc commandCode]
def TxKind.code : TxKind → Byte
  | .reply => 0x81
  | .report => 0x82
  | .hello => 0x83

/-- The bytes of a frame on the line: start code, kind, sequence, length, payload, CRC low byte first (Table 11-1). -/
def frameBytes (kind seq : Byte) (payload : List Byte) : List Byte :=
  let covered := kind :: seq :: BitVec.ofNat 8 payload.length :: payload
  Config.startCode :: covered ++ putBits16 (crcOf covered)

/-- The bytes of a frame the part sends. -/
def TxFrame.bytes (f : TxFrame) : List Byte := frameBytes f.kind.code f.seq f.payload

end Sys2Proof.Machine
end

