-- ==== Sys2Proof/Machine/Ops.lean ====
section
/-! DEFINITION. The named operations over the state: each block's update, the units read and written by number, the taking
of a report by the Report Queue (R125, R126) and of a capture by the Capture Queue (R108, R109). -/

namespace Sys2Proof.Machine

/-- The outcome of one event. -/
abbrev Result := Host.Outcome State Fault Refusal

/-! ### Updates, one a block -/

@[inherit_doc State]
def State.setPending (s : State) (q : List Instr) : State := { s with pending := q }

@[inherit_doc State]
def State.setPauses (s : State) (l : List (Option Nat)) : State := { s with pauses := l }

@[inherit_doc State]
def State.setTick (s : State) (t : Tick) : State := { s with tick := t }

@[inherit_doc State]
def State.setAxes (s : State) (v : Vector AxisUnit 8) : State := { s with axes := v }

@[inherit_doc State]
def State.setMks (s : State) (m : MarkScheduler) : State := { s with mks := m }

@[inherit_doc State]
def State.setAcu (s : State) (c : Option ActionContext) : State := { s with acu := c }

@[inherit_doc State]
def State.setLines (s : State) (v : Vector Line 16) : State := { s with lines := v }

@[inherit_doc State]
def State.setStrobes (s : State) (v : Vector Strobe 8) : State := { s with strobes := v }

@[inherit_doc State]
def State.setCpq (s : State) (q : CaptureQueue) : State := { s with cpq := q }

@[inherit_doc State]
def State.setRpq (s : State) (q : ReportQueue) : State := { s with rpq := q }

@[inherit_doc State]
def State.setRnc (s : State) (r : RunControl) : State := { s with rnc := r }

@[inherit_doc State]
def State.setLrx (s : State) (r : LinkReceiver) : State := { s with lrx := r }

@[inherit_doc State]
def State.setLtx (s : State) (t : LinkTransmitter) : State := { s with ltx := t }

@[inherit_doc State]
def State.setCmi (s : State) (c : CommandInterpreter) : State := { s with cmi := c }

@[inherit_doc State]
def State.setFreeIndex (s : State) (n : Nat) : State := { s with freeIndex := n }

/-! ### Units by number -/

/-- The unit of axis `a`. -/
def State.axis (s : State) (a : Axis) : AxisUnit := s.axes[a.val]

/-- The unit of axis `a` replaced. -/
def State.setAxis (s : State) (a : Axis) (u : AxisUnit) : State := s.setAxes (s.axes.set a.val u)

/-- Line `n`. -/
def State.line (s : State) (n : LineNo) : Line := s.lines[n.val]

/-- Line `n` replaced. -/
def State.setLine (s : State) (n : LineNo) (l : Line) : State := s.setLines (s.lines.set n.val l)

/-- Strobe `n`. -/
def State.strobe (s : State) (n : StrobeNo) : Strobe := s.strobes[n.val]

/-- Strobe `n` replaced. -/
def State.setStrobe (s : State) (n : StrobeNo) (b : Strobe) : State := s.setStrobes (s.strobes.set n.val b)

/-- A function applied to every unit of a vector. -/
def mapUnits {α : Type} {n : Nat} (f : α → α) (v : Vector α n) : Vector α n := ⟨⟨v.toList.map f⟩, by simp⟩

/-- An event of one axis; an axis the part does not have is a fault (Table 0-4). -/
def onAxis (n : Nat) (s : State) (f : Axis → State → State) : Result :=
  if h : n < 8 then .next (f ⟨n, h⟩ s) else .fault .noSuchAxis

/-- An event of one strobe; a strobe the part does not have is a fault (Table 0-4). -/
def onStrobe (n : Nat) (s : State) (f : StrobeNo → State → State) : Result :=
  if h : n < 8 then .next (f ⟨n, h⟩ s) else .fault .noSuchStrobe

/-- An event of one line; a line the part does not have is a fault (Table 0-4). -/
def onLine (n : Nat) (s : State) (f : LineNo → State → State) : Result :=
  if h : n < 16 then .next (f ⟨n, h⟩ s) else .fault .noSuchLine

/-- The positions of the axes of a mask, in ascending axis order (R77, R101, R111). -/
def State.positions (s : State) (mask : BitVec 8) : List Int := (maskAxes mask).map fun a => (s.axis a).pos

/-! ### Taking a report (R122 to R126) -/

/-- An unsent OVERFLOW record with one more report of kind `k`, dropped at `t`, in it; none if the record is not one
(R126). -/
def ReportRecord.absorb (r : ReportRecord) (k : ReportKind) (t : Tick) : Option ReportRecord :=
  match r.body, r.send with
  | .overflow dropped kinds _, .unsent => some { r with body := .overflow (bump dropped) (kinds ||| k.term) t }
  | _, _ => none

/-- The record appended for a report: the report itself while there is room, else the OVERFLOW record that stands for it
(R125 cases 2 and 3). -/
def appendedRecord (room : Bool) (r : Report) (t : Tick) : ReportRecord :=
  if room then { body := r, send := .unsent, created := t }
  else { body := .overflow 1 r.kind.term t, send := .unsent, created := t }

/-- A report of an enabled kind joins the records by the first case of R125 that applies. -/
def queueReport (records : List ReportRecord) (r : Report) (t : Tick) : List ReportRecord :=
  match records.getLast?.bind fun newest => newest.absorb r.kind t with
  | some merged => records.dropLast ++ [merged]
  | none => records ++ [appendedRecord (decide (records.length < Config.reportCapacity)) r t]

/-- The Report Queue takes a report at tick `t`; a report of a disabled kind is discarded (R123). -/
def ReportQueue.take (q : ReportQueue) (r : Report) (t : Tick) : ReportQueue :=
  if r.kind.enabled q.mask then { q with records := queueReport q.records r t } else q

/-- A block hands a report to the Report Queue, which takes it now (R122). -/
def State.report (s : State) (r : Report) : State := s.setRpq (s.rpq.take r s.tick)

/-- `s.report r` when `c` holds. -/
def State.reportIf (s : State) (c : Bool) (r : Report) : State := if c then s.report r else s

/-! ### Taking a capture (R108, R109) -/

/-- The Capture Queue has room for a record (R107). -/
def CaptureQueue.room (q : CaptureQueue) : Bool := decide (q.records.length < Config.captureCapacity)

/-- A capture stored at the tail, with GAP from the gap-pending flag (R108). -/
def CaptureQueue.store (q : CaptureQueue) (c : Capture) : CaptureQueue :=
  { q with records := q.records ++ [{ c with gap := q.gapPending }], gapPending := false, waitingNotice := true }

/-- A STROBE or MARK capture lost to a full queue (R109). -/
def CaptureQueue.lose (q : CaptureQueue) : CaptureQueue := { q with overrun := true, gapPending := true }

/-- A capture is stored, with CAPTURES_WAITING if the waiting-notice flag was clear (R108). -/
def State.storeCapture (s : State) (c : Capture) : State :=
  (s.setCpq (s.cpq.store c)).reportIf (!s.cpq.waitingNotice)
    (.capturesWaiting (s.cpq.records.length + 1) s.tick)

/-- A capture is lost, with CAPTURE_OVERRUN if the overrun flag was clear (R109). -/
def State.loseCapture (s : State) (c : Capture) : State :=
  (s.setCpq s.cpq.lose).reportIf (!s.cpq.overrun) (.captureOverrun c.tick c.source)

/-- A STROBE or MARK capture is offered: stored when there is room, else lost (R108, R109). -/
def State.offerCapture (s : State) (c : Capture) : State :=
  if s.cpq.room then s.storeCapture c else s.loseCapture c

end Sys2Proof.Machine
end

