-- ==== Sys2Proof/Machine/AxisUnits.lean ====
section
/-! DEFINITION. The Axis Units (spec 01): filtering, the counting modes, taking a step, faults, the index, jumps; and the
events FILTERED_SAMPLE, PIN_SAMPLE and TIME_COUNT_EXPIRY. -/

namespace Sys2Proof.Machine

/-! ### Sampling and filtering (R5) -/

/-- One sample of a pin under input filter `f`: the filtered level follows the pin at the (2f + 1)-th consecutive sample
that reads the new level (R5). -/
def PinFilter.sample (p : PinFilter) (f : Nat) (v : Level) : PinFilter :=
  if v = p.filtered then { pin := v, filtered := p.filtered, runCount := 0 }
  else if p.runCount + 1 < 2 * f + 1 then { pin := v, filtered := p.filtered, runCount := p.runCount + 1 }
  else { pin := v, filtered := v, runCount := 0 }

/-- One sample of the three pins of an axis. -/
def AxisUnit.sample (u : AxisUnit) (a b z : Level) : AxisUnit :=
  { u with a := u.a.sample u.config.filter a, b := u.b.sample u.config.filter b, z := u.z.sample u.config.filter z }

/-- A filtered level differs between two moments of an axis. -/
def AxisUnit.filteredChange (u v : AxisUnit) : Bool :=
  u.a.filtered != v.a.filtered || u.b.filtered != v.b.filtered || u.z.filtered != v.z.filtered

/-! ### Counting modes (R7 to R10) -/

/-- What a filtered sample gives, before inversion. -/
inductive Decoded where
  | nothing
  | count (dir : Direction)
  | phaseError
deriving DecidableEq, Repr

/-- The place of a pair (A, B) in the forward sequence (0,0), (1,0), (1,1), (0,1) (R7). -/
def pairRank : Level → Level → Nat
  | .low, .low => 0
  | .high, .low => 1
  | .high, .high => 2
  | .low, .high => 3

/-- QUAD_X4: the new pair judged against the reference pair (R7). -/
def decodeX4 (refA refB newA newB : Level) : Decoded :=
  match (pairRank newA newB + 4 - pairRank refA refB) % 4 with
  | 0 => .nothing
  | 1 => .count .up
  | 3 => .count .down
  | _ => .phaseError

/-- QUAD_X2: each edge of A, judged on B's new level (R8). -/
def decodeX2 (oldA newA newB : Level) : Decoded :=
  match oldA, newA, newB with
  | .low, .high, .low => .count .up
  | .low, .high, .high => .count .down
  | .high, .low, .high => .count .up
  | .high, .low, .low => .count .down
  | _, _, _ => .nothing

/-- QUAD_X1: an edge of A with B low (R8). -/
def decodeX1 (oldA newA newB : Level) : Decoded :=
  match oldA, newA, newB with
  | .low, .high, .low => .count .up
  | .high, .low, .low => .count .down
  | _, _, _ => .nothing

/-- STEP_DIR: A rising, the direction from B's new level (R9). -/
def decodeStepDir (oldA newA newB : Level) : Decoded :=
  match oldA, newA, newB with
  | .low, .high, .low => .count .up
  | .low, .high, .high => .count .down
  | _, _, _ => .nothing

/-- UP_DOWN: A rising alone, or B rising alone (R9). -/
def decodeUpDown (oldA oldB newA newB : Level) : Decoded :=
  match decide (oldA = .low ∧ newA = .high), decide (oldB = .low ∧ newB = .high) with
  | true, false => .count .up
  | false, true => .count .down
  | _, _ => .nothing

/-- What the change from `u` to `v` gives in the axis's mode (Table 1-3). TIMEBASE, REVS and OFF count nothing from A
and B (R10, R11, R12). -/
def AxisUnit.decode (u v : AxisUnit) : Decoded :=
  match u.config.mode with
  | .quadX4 => decodeX4 u.refA u.refB v.a.filtered v.b.filtered
  | .quadX2 => decodeX2 u.a.filtered v.a.filtered v.b.filtered
  | .quadX1 => decodeX1 u.a.filtered v.a.filtered v.b.filtered
  | .stepDir => decodeStepDir u.a.filtered v.a.filtered v.b.filtered
  | .upDown => decodeUpDown u.a.filtered u.b.filtered v.a.filtered v.b.filtered
  | .off | .timebase | .revs => .nothing

/-- In QUAD_X4 the new pair becomes the reference pair, after a phase error too (R7; log entry 8). -/
def AxisUnit.keepReference (u : AxisUnit) : AxisUnit :=
  match u.config.mode with
  | .quadX4 => { u with refA := u.a.filtered, refB := u.b.filtered }
  | .off | .quadX1 | .quadX2 | .stepDir | .upDown | .timebase | .revs => u

/-! ### Taking a count (R6, R13, R14, R15) -/

/-- The direction of a count after inversion (R6). -/
def AxisConfig.directed (c : AxisConfig) (d : Direction) : Direction := if c.invert then d.flip else d

/-- Where a count takes a position, and whether the step is a wrap; none when a LINEAR axis would leave its range
(R14, R15). -/
def AxisConfig.countTo (c : AxisConfig) (p : Int) (d : Direction) : Option (Int × Bool) :=
  match c.kind, d with
  | .linear, .up => if p + 1 ≤ Config.linearMax then some (p + 1, false) else none
  | .linear, .down => if Config.linearMin ≤ p - 1 then some (p - 1, false) else none
  | .rotary, .up => if p = c.modulus - 1 then some (0, true) else some (p + 1, false)
  | .rotary, .down => if p = 0 then some (c.modulus - 1, true) else some (p - 1, false)

/-- The step interval after a step at tick `t` (R13). -/
def AxisUnit.nextInterval (u : AxisUnit) (t : Tick) : Option Nat :=
  match u.lastStep with
  | some t' => some (min (elapsed t t') Config.wideMax)
  | none => none

/-- A step taken at tick `t`: position, step record, and one step arrival handed on (R13, R14, R20). -/
def AxisUnit.takeStep (u : AxisUnit) (p : Int) (d : Direction) (t : Tick) : AxisUnit :=
  { u with
    pos := p
    interval := u.nextInterval t
    lastStep := some t
    lastDir := some d
    arrivals := u.arrivals ++ [.step p d t] }

/-- A count of axis `a` whose mode gives direction `d`: the step, or the refusal at the limit with its flag and report
(R14, R15, R16). -/
def State.countAxis (s : State) (a : Axis) (d : Direction) : State :=
  let u := s.axis a
  let dir := u.config.directed d
  match u.config.countTo u.pos dir with
  | some (p, _) => s.setAxis a (u.takeStep p dir s.tick)
  | none =>
    (s.setAxis a { u with limitFlag := true }).reportIf (!u.limitFlag)
      (.axisFault a .limit u.pos s.tick u.phaseErrors)

/-- The wrap that a count of axis `a` makes: its direction, if the step is a wrap (R14). -/
def State.wrapOf (s : State) (a : Axis) (d : Direction) : Option Direction :=
  let u := s.axis a
  let dir := u.config.directed d
  match u.config.countTo u.pos dir with
  | some (_, true) => some dir
  | _ => none

/-- Axis `b` counts the wraps of axis `a` (R11). -/
def State.countsWrapsOf (s : State) (a b : Axis) : Bool :=
  decide ((s.axis b).config.mode = .revs) && decide ((s.axis b).config.source = a)

/-- A count of axis `a`, its wrap delivered to every REVS axis sourced from it, and theirs in turn (R11, R14 step 4).
The chain is at most eight axes long (R4 check 6); the axes are taken in ascending order (log entry 9). -/
def State.deliverCount : Nat → Axis → Direction → State → State
  | 0, _, _, s => s
  | depth + 1, a, d, s =>
    match s.wrapOf a d with
    | none => s.countAxis a d
    | some w =>
      (allAxes.filter fun b => s.countsWrapsOf a b).foldl (fun st b => State.deliverCount depth b w st)
        (s.countAxis a d)

/-- A count of axis `a` with every count it brings about. -/
def State.count (s : State) (a : Axis) (d : Direction) : State := State.deliverCount Config.revsDepth a d s

/-- A phase error of axis `a` (R7, R16). -/
def State.phaseError (s : State) (a : Axis) : State :=
  let u := s.axis a
  let errors := bump u.phaseErrors
  (s.setAxis a { u with phaseFlag := true, phaseErrors := errors }).reportIf (!u.phaseFlag)
    (.axisFault a .phase u.pos s.tick errors)

/-! ### Index (R17, R18) -/

/-- The index direction qualifier judged on the last direction (R17). -/
def Qualifier.passesIndex (q : Qualifier) (last : Option Direction) : Bool :=
  match q, last with
  | .either, _ => true
  | .up, some .up => true
  | .down, some .down => true
  | _, _ => false

/-- An index event of one unit (R18): latch, and in the HOME modes the preset with its jump arrival. -/
def AxisUnit.takeIndex (u : AxisUnit) (t : Tick) : AxisUnit :=
  let latched := { u with latch := some { pos := u.pos, tick := t } }
  match u.config.indexMode with
  | .ignore => u
  | .latch => latched
  | .homeOnce =>
    { latched with
      pos := u.config.indexPreset
      home := .homed
      config := { u.config with indexMode := .latch }
      arrivals := u.arrivals ++ [.jump u.config.indexPreset t] }
  | .homeEvery =>
    { latched with
      pos := u.config.indexPreset
      home := .homed
      arrivals := u.arrivals ++ [.jump u.config.indexPreset t] }

/-- An index event of axis `a` with its INDEX_SEEN report (R18). -/
def State.indexEvent (s : State) (a : Axis) : State :=
  let u := s.axis a
  let v := u.takeIndex s.tick
  (s.setAxis a v).reportIf (decide (u.config.indexMode ≠ .ignore))
    (.indexSeen a u.pos v.pos s.tick v.home)

/-- A rising edge of the filtered ENCZ level that passes the qualifier is an index event, in every mode but OFF (R12,
R17). -/
def State.indexEdge (s : State) (a : Axis) : State :=
  let u := s.axis a
  if u.config.mode ≠ .off ∧ u.config.indexQual.passesIndex u.lastDir then s.indexEvent a else s

/-! ### The events -/

/-- The count or phase error of a filtered sample. -/
def State.takeDecoded (s : State) (a : Axis) : Decoded → State
  | .nothing => s
  | .count d => s.count a d
  | .phaseError => s.phaseError a

/-- One filtered sample: the count first, then the index on what the count has left (R17). Two orders are the model's choice: a phase
error too is taken before the index (log entry 21), and what a wrap brings about at the REVS axes is taken before the index (log entry
22). -/
def State.filteredSample (a : Axis) (la lb lz : Level) (s : State) : State :=
  let u := s.axis a
  let v := u.sample la lb lz
  if u.filteredChange v then
    let counted := (s.setAxis a v.keepReference).takeDecoded a (u.decode v)
    if u.z.filtered = .low ∧ v.z.filtered = .high then counted.indexEdge a else counted
  else s

/-- FILTERED_SAMPLE (R5 to R9, R17, R18): a sample at which a filtered level changes. A sample that changes none is not this
event and changes nothing here (log entry 1). -/
def execFilteredSample (axis : Nat) (a b z : Level) (s : State) : Result :=
  onAxis axis s fun n => State.filteredSample n a b z

/-- One sample at which no filtered level changes: the filter run counts move (R5). -/
def State.pinSample (a : Axis) (la lb lz : Level) (s : State) : State :=
  let u := s.axis a
  let v := u.sample la lb lz
  if u.filteredChange v then s else s.setAxis a v

/-- PIN_SAMPLE (R5): a sample at which no filtered level changes. A sample that changes one is not this event and changes
nothing here (log entry 1). -/
def execPinSample (axis : Nat) (a b z : Level) (s : State) : Result :=
  onAxis axis s fun n => State.pinSample n a b z

/-- The expiry of an axis's time count (R10): it restarts with the same length and gives one UP count. -/
def State.timeCount (a : Axis) (s : State) : State :=
  let u := s.axis a
  if due u.timeEnd s.tick then
    (s.setAxis a { u with timeEnd := some (endTick s.tick u.config.divisor) }).count a .up
  else s

/-- TIME_COUNT_EXPIRY (R10). -/
def execTimeCountExpiry (axis : Nat) (s : State) : Result := onAxis axis s State.timeCount

/-! ### Jumps (R21) -/

/-- A PRESET action or PRESET_AXIS at the unit: position, step record, jump arrival (R21, R23, R80). -/
def AxisUnit.preset (u : AxisUnit) (v : Int) (t : Tick) : AxisUnit :=
  { u with pos := v, lastStep := none, interval := none, arrivals := u.arrivals ++ [.jump v t] }

/-- CONFIG_AXIS accepted at tick `t` (R22): the new record, the reseeded filters, every item cleared, and the jump to the initial
position. The pins it reseeds from are as the last sample event before it read them (DESIGN CHOICE, unsafe; log entry 27). -/
def AxisUnit.configure (u : AxisUnit) (c : AxisConfig) (t : Tick) : AxisUnit where
  config := c
  pos := c.initial
  lastDir := none
  lastStep := none
  interval := none
  phaseFlag := false
  limitFlag := false
  phaseErrors := 0
  latch := none
  home := .notHomed
  a := .seeded u.a.pin
  b := .seeded u.b.pin
  z := .seeded u.z.pin
  refA := u.a.pin
  refB := u.b.pin
  timeEnd := if c.mode = .timebase then some (endTick t c.divisor) else none
  arrivals := u.arrivals ++ [.jump c.initial t]

end Sys2Proof.Machine
end

