-- ==== Sys2Proof/Machine/Marks.lean ====
section
/-! DEFINITION. The mark table (spec 02): records by id, the ordered list of an axis, band distance, arming and disarming of
one mark and of a group, and the transition of a fired mark (spec 03 R56, R57). -/

namespace Sys2Proof.Machine

/-! ### Records by id (R27) -/

/-- The record of mark `id`; none is UNUSED. -/
def findMark (marks : List Mark) (id : MarkId) : Option Mark := marks.find? fun m => decide (m.id = id)

/-- A record put in its place by id, replacing the one there. -/
def putRecord (m : Mark) : List Mark → List Mark
  | [] => [m]
  | x :: rest =>
    if m.id < x.id then m :: x :: rest
    else if m.id = x.id then m :: rest
    else x :: putRecord m rest

/-- The table without mark `id` (R40). -/
def eraseRecord (marks : List Mark) (id : MarkId) : List Mark := marks.filter fun m => decide (m.id ≠ id)

/-- The record of mark `id` in the mark table. -/
def State.mark (s : State) (id : MarkId) : Option Mark := findMark s.mks.marks id

/-- The mark table replaced. -/
def State.setMarks (s : State) (marks : List Mark) : State := s.setMks { s.mks with marks := marks }

/-- A record written. -/
def State.putMark (s : State) (m : Mark) : State := s.setMarks (putRecord m s.mks.marks)

/-- ARMED or REARMING (R29). -/
def Mark.active (m : Mark) : Bool := decide (m.state = .armed ∨ m.state = .rearming)

/-- The armed mark count (R29). -/
def State.armedCount (s : State) : Nat := (s.mks.marks.filter (·.active)).length

/-- The order of an axis's list: current target ascending, then id ascending (R31). -/
def Mark.before (m n : Mark) : Prop := m.target < n.target ∨ (m.target = n.target ∧ m.id ≤ n.id)

/-- A mark put in its place in an ordered list (R31). -/
def insertByTarget (m : Mark) : List Mark → List Mark
  | [] => [m]
  | x :: rest =>
    if m.target < x.target ∨ (m.target = x.target ∧ m.id ≤ x.id) then m :: x :: rest else x :: insertByTarget m rest

/-- The list of axis `a`: its defined marks by current target, then id (R31). -/
def State.axisMarks (s : State) (a : Axis) : List Mark :=
  (s.mks.marks.filter fun m => decide (m.axis = a)).foldr insertByTarget []

/-- The ids of the members of a group for which `p` holds, in ascending order (R30). -/
def State.members (s : State) (g : GroupNo) (p : Mark → Bool) : List MarkId :=
  (s.mks.marks.filter fun m => decide (m.group = g) && p m).map (·.id)

/-! ### Band distance (R35) -/

/-- The distance between a position and a target on an axis (R35; 00 "Positions"). -/
def AxisConfig.distance (c : AxisConfig) (p t : Int) : Nat :=
  match c.kind with
  | .linear => (p - t).natAbs
  | .rotary =>
    let d := ((p - t) % c.modulus).toNat
    min d (c.modulus - d)

/-- A band check (R35): a REARMING REPEAT mark at distance H or more from its current target becomes ARMED. -/
def Mark.bandCheck (m : Mark) (c : AxisConfig) (p : Int) : Mark :=
  match m.state, m.kind with
  | .rearming, .repeating h => if h ≤ c.distance p m.target then { m with state := .armed } else m
  | _, _ => m

/-! ### Arming one mark (R33, R34, R36) -/

/-- The current target a PITCH mark is aligned to on a LINEAR axis: the first of base ± k·S strictly ahead of `p` (R36). -/
def alignedTarget (qual : Qualifier) (base : Int) (step : Nat) (p : Int) : Int :=
  match qual with
  | .down => if base < p then base else base - ((base - p) / step + 1) * step
  | .up | .either => if p < base then base else base + ((p - base) / step + 1) * step

/-- A position is within the LINEAR range (00 "Positions"). -/
def inLinear (v : Int) : Bool := decide (Config.linearMin ≤ v) && decide (v ≤ Config.linearMax)

/-- The range check of R33, step 3, for a mark on an axis configured `c` at position `p`. -/
def Mark.armable (m : Mark) (c : AxisConfig) (p : Int) : Bool :=
  match c.kind, m.kind with
  | .linear, .pitch step _ _ => inLinear (alignedTarget m.qual m.base step p)
  | .linear, _ => true
  | .rotary, .pitch step _ _ => c.inRange m.base && decide (step + 1 ≤ c.modulus)
  | .rotary, _ => c.inRange m.base

/-- A mark armed against an axis configured `c` at position `p` (R34, R36). -/
def Mark.arm (m : Mark) (c : AxisConfig) (p : Int) : Mark :=
  match m.kind with
  | .once => { m with state := .armed, target := m.base }
  | .repeating h =>
    { m with state := if h ≤ c.distance p m.base then .armed else .rearming, target := m.base }
  | .pitch step base _ =>
    { m with
      state := .armed
      target := match c.kind with
        | .linear => alignedTarget m.qual m.base step p
        | .rotary => m.base
      kind := .pitch step base base }

/-- The position that the arming of a mark on axis `a` reads (R33): the Axis Unit's; while a step arrival of the same axis is
being taken, the one its record holds (R59, R82; log entry 25). -/
def State.positionRead (s : State) (a : Axis) : Int :=
  match s.mks.arrival with
  | some r => if r.axis = a then r.reads else (s.axis a).pos
  | none => (s.axis a).pos

/-- Arming one mark, with its per-mark result (R33). -/
def State.armMark (s : State) (id : MarkId) : State × MarkResult :=
  match s.mark id with
  | none => (s, .markUnused)
  | some m =>
    let c := (s.axis m.axis).config
    let p := s.positionRead m.axis
    if m.active then (s, .alreadyArmed)
    else if m.armable c p then (s.putMark (m.arm c p), .ok)
    else (s, .outOfRange)

/-! ### Disarming one mark (R37) -/

/-- The arrival being taken, if any, notes a mark disarmed (R49, R53). -/
def MarkScheduler.noteDisarmed (k : MarkScheduler) (id : MarkId) : MarkScheduler :=
  { k with arrival := k.arrival.map fun r => { r with disarmed := id :: r.disarmed } }

/-- Disarming one mark, with its per-mark result (R37). -/
def State.disarmMark (s : State) (id : MarkId) : State × MarkResult :=
  match s.mark id with
  | none => (s, .markUnused)
  | some m =>
    let t := s.putMark { m with state := .disarmed }
    (t.setMks (t.mks.noteDisarmed id), .ok)

/-! ### Groups (R30, R43, R44) -/

/-- A member that group arming arms: DISARMED or SPENT (R43). -/
def Mark.idle (m : Mark) : Bool := !m.active

/-- A member that group disarming changes: ARMED, REARMING or SPENT (R44). -/
def Mark.disarmable (m : Mark) : Bool := decide (m.state ≠ .disarmed)

/-- Arming of a list of marks, with the per-mark result of each. -/
def State.armEach (s : State) : List MarkId → State × List MarkResult
  | [] => (s, [])
  | id :: rest =>
    let (s1, r) := s.armMark id
    let (s2, rs) := s1.armEach rest
    (s2, r :: rs)

/-- Disarming of a list of marks, with the per-mark result of each. -/
def State.disarmEach (s : State) : List MarkId → State × List MarkResult
  | [] => (s, [])
  | id :: rest =>
    let (s1, r) := s.disarmMark id
    let (s2, rs) := s1.disarmEach rest
    (s2, r :: rs)

/-- Group arming: every DISARMED or SPENT member in ascending id order (R43, R82, R104). -/
def State.armMembers (s : State) (g : GroupNo) : State × List MarkResult := s.armEach (s.members g Mark.idle)

/-- Group disarming: every ARMED, REARMING or SPENT member in ascending id order (R44, R83). -/
def State.disarmMembers (s : State) (g : GroupNo) : State × List MarkResult :=
  s.disarmEach (s.members g Mark.disarmable)

/-! ### The transition of a fired mark (R56, R57) -/

/-- The target one pitch further in the mark's direction; on a ROTARY axis reduced modulo M (R57). -/
def advancedTarget (c : AxisConfig) (qual : Qualifier) (target : Int) (step : Nat) : Int :=
  let moved := match qual with
    | .down => target - step
    | .up | .either => target + step
  match c.kind with
  | .linear => moved
  | .rotary => moved % c.modulus

/-- The state transition of firing (R56, R57). -/
def Mark.fired (m : Mark) (c : AxisConfig) : Mark :=
  match m.kind with
  | .once => { m with state := .spent }
  | .repeating _ => { m with state := .rearming }
  | .pitch step base remaining =>
    let next := advancedTarget c m.qual m.target step
    let left := remaining.map (· - 1)
    if c.kind = .linear ∧ !inLinear next then { m with state := .spent, kind := .pitch step base left }
    else
      { m with
        state := if left = some 0 then .spent else .armed
        target := next
        kind := .pitch step base left }

/-! ### The RUN catch-up (R65, R66) -/

/-- The current target of a mark is behind position `p` in its direction (R65). -/
def Mark.behind (m : Mark) (p : Int) : Bool :=
  match m.qual with
  | .down => decide (p ≤ m.target)
  | .up | .either => decide (m.target ≤ p)

/-- The number of targets a catch-up skips (R66). -/
def skippedTargets (qual : Qualifier) (target : Int) (step : Nat) (p : Int) : Nat :=
  match qual with
  | .down => ((target - p) / step + 1).toNat
  | .up | .either => ((p - target) / step + 1).toNat

/-- The target a catch-up moves to (R66). -/
def caughtUpTarget (qual : Qualifier) (target : Int) (step : Nat) (k : Nat) : Int :=
  match qual with
  | .down => target - k * step
  | .up | .either => target + k * step

/-- The catch-up of one mark on an axis configured `c` at position `p`: the advanced mark and k; none for a mark it does
not advance (R65, R66). -/
def Mark.catchUp (m : Mark) (c : AxisConfig) (p : Int) : Option (Mark × Nat) :=
  match m.kind with
  | .pitch step base remaining =>
    if m.state = .armed ∧ c.kind = .linear ∧ m.behind p then
      let k := skippedTargets m.qual m.target step p
      let next := caughtUpTarget m.qual m.target step k
      match remaining with
      | some r =>
        if r ≤ k then some ({ m with state := .spent, kind := .pitch step base (some 0) }, k)
        else if inLinear next then some ({ m with target := next, kind := .pitch step base (some (r - k)) }, k)
        else some ({ m with state := .spent, kind := .pitch step base (some (r - k)) }, k)
      | none =>
        if inLinear next then some ({ m with target := next }, k)
        else some ({ m with state := .spent }, k)
    else none
  | .once | .repeating _ => none

/-- The MARK_SKIPPED report of a mark the catch-up advanced (R67). -/
def Mark.skippedReport (m : Mark) (k : Nat) (t : Tick) : Report :=
  .markSkipped m.id m.axis (min k Config.wideMax) (decide (m.state = .spent)) m.target m.kind.remaining t

/-- The catch-up of the marks listed, in order, with the number advanced (R65, R66, R67). -/
def State.catchUpEach (s : State) : List MarkId → State × Nat
  | [] => (s, 0)
  | id :: rest =>
    match (s.mark id).bind fun m => m.catchUp (s.axis m.axis).config (s.axis m.axis).pos with
    | none => s.catchUpEach rest
    | some (m, k) =>
      let (t, n) := ((s.putMark m).report (m.skippedReport k s.tick)).catchUpEach rest
      (t, n + 1)

/-- The RUN catch-up of the whole table in ascending id order (R65). -/
def State.catchUp (s : State) : State × Nat := s.catchUpEach (s.mks.marks.map (·.id))

end Sys2Proof.Machine
end

