-- ==== Sys2Proof/Machine/Lines.lean ====
section
/-! DEFINITION. The Output Line Unit (spec 05): requests, pulses and collisions, safe levels, and the event PULSE_END. -/

namespace Sys2Proof.Machine

/-- What a line does with a request of its owner. -/
inductive LineAnswer where
  | taken (l : Line)
  /-- LINE_BUSY: refused under REFUSE; the collision count is incremented (R90). -/
  | busy (l : Line)
  /-- The requester is not the owner; the line is unchanged (R86). -/
  | notOwner
deriving DecidableEq, Repr

/-- A set request (R87). -/
def Line.set (l : Line) (v : Level) : Line := { l with level := v, pulse := none }

/-- A toggle request (R88). -/
def Line.toggle (l : Line) : Line := { l with level := l.level.flip, pulse := none }

/-- A pulse started, or restarted, at tick `t` (R89, R90 RESTART). -/
def Line.startPulse (l : Line) (v : Level) (width : Nat) (t : Tick) : Line :=
  { l with level := v, pulse := some { level := v, endTick := endTick t (Config.ticksPerMicro * width) } }

/-- A pulse request of the owner at tick `t` (R89, R90). -/
def Line.pulseRequest (l : Line) (v : Level) (width : Nat) (t : Tick) : LineAnswer :=
  if l.pulse.isSome ∧ l.policy = .refuse then .busy { l with collisions := bump l.collisions }
  else .taken (l.startPulse v width t)

/-- A request of `requester` at tick `t` (R86 to R90). -/
def Line.request (l : Line) (requester : Owner) (r : LineRequest) (t : Tick) : LineAnswer :=
  if requester ≠ l.owner then .notOwner
  else
    match r with
    | .set v => .taken (l.set v)
    | .toggle => .taken l.toggle
    | .pulse v width => l.pulseRequest v width t

/-- A line driven to its safe level, its pulse cancelled (R92). -/
def Line.driveSafe (l : Line) : Line := { l with level := l.safe, pulse := none }

/-- CONFIG_LINE accepted (R93). -/
def Line.configure (l : Line) (owner : Owner) (safe : Level) (policy : Policy) : Line :=
  { l with owner := owner, safe := safe, policy := policy, level := safe, pulse := none }

/-- The expiry of the pulse end timer at tick `t` (R91). -/
def Line.expire (l : Line) (t : Tick) : Line :=
  match l.pulse with
  | some p => if p.endTick = t then { l with level := p.level.flip, pulse := none } else l
  | none => l

/-- Every line driven to its safe level (R92). -/
def State.driveSafe (s : State) : State := s.setLines (mapUnits Line.driveSafe s.lines)

/-- The expiry of a line's pulse end timer (R91). -/
def State.pulseEnd (n : LineNo) (s : State) : State := s.setLine n ((s.line n).expire s.tick)

/-- PULSE_END (R91). -/
def execPulseEnd (line : Nat) (s : State) : Result := onLine line s State.pulseEnd

/-- The time from tick `now` to the end of a pulse in µs, rounded up (R94, R96). -/
def Pulse.microsLeft (p : Pulse) (now : Tick) : Nat :=
  (elapsed p.endTick now + Config.ticksPerMicro - 1) / Config.ticksPerMicro

/-- The µs left of a pulse, rounded up (R96); at its end tick, where the pulse is still in flight and no value is stated,
a free value within the range R96 gives (log entry 5). -/
def Pulse.remaining (p : Pulse) (now : Tick) (fresh : Nat) (n : LineNo) : Nat :=
  if p.endTick = now then Config.pulseRemainderAtEnd fresh n.val % 1000000 + 1 else p.microsLeft now

end Sys2Proof.Machine
end

