-- ==== Sys2Proof/Machine/Actions.lean ====
section
/-! DEFINITION. The Action Unit (spec 04) and the taking of arrivals by the Mark Scheduler (spec 03): the band, select and
fire phases, and the events STEP_ARRIVAL, JUMP_ARRIVAL and STROBE_GROUP_ARM. -/

namespace Sys2Proof.Machine

/-! ### One action entry (R71 to R83) -/

/-- An entry that fails a check is skipped with one ACTION_SKIPPED report (R72). -/
def State.skip (s : State) (c : ActionContext) (cause : SkipCause) : State :=
  s.report (.actionSkipped c.mark c.index cause c.tick)

/-- A PULSE, SET or TOGGLE entry: a request of MARK on the line (R73, R74). -/
def State.lineAction (s : State) (c : ActionContext) (n : LineNo) (r : LineRequest) : State :=
  match (s.line n).request .mark r s.tick with
  | .taken l => s.setLine n l
  | .busy l => (s.setLine n l).skip c .lineBusy
  | .notOwner => s.skip c .lineNotMarkOwned

/-- A SNAPSHOT entry (R77, R79). -/
def State.snapshotAction (s : State) (c : ActionContext) (mask : BitVec 8) : State :=
  if (maskAxes mask).all fun a => decide ((s.axis a).config.mode = .off) then s.skip c .axisOff
  else
    let record : Capture :=
      { source := .mark c.mark, gap := false, tick := c.tick, mask := mask, positions := s.positions mask }
    if s.cpq.room then s.storeCapture record else (s.loseCapture record).skip c .captureFull

/-- A PRESET entry has set axis `a`: group armings of an arrival of that axis read the preset value from now on (R59, R82). -/
def State.notePreset (s : State) (a : Axis) (v : Int) : State :=
  s.setMks { s.mks with arrival := s.mks.arrival.map fun r => if r.axis = a then { r with reads := v } else r }

/-- A PRESET entry (R80, R81). -/
def State.presetAction (s : State) (c : ActionContext) (a : Axis) (v : Int) : State :=
  let u := s.axis a
  if u.config.mode = .off then s.skip c .axisOff
  else if u.config.inRange v then (s.setAxis a (u.preset v s.tick)).notePreset a v
  else s.skip c .presetRange

/-- One entry taken, with its checks (R71). -/
def State.takeEntry (s : State) (c : ActionContext) : Action → State
  | .pulse line level width => s.lineAction c line (.pulse level width)
  | .set line level => s.lineAction c line (.set level)
  | .toggle line => s.lineAction c line .toggle
  | .snapshot mask => s.snapshotAction c mask
  | .preset axis value => s.presetAction c axis value
  | .armGroup group => (s.armMembers group).1
  | .disarmGroup group => (s.disarmMembers group).1

/-- The entries of a context from its index on, one at a time, each with the context RUNNING at it; then IDLE (R70,
R71). -/
def State.runEntries (s : State) (c : ActionContext) : List Action → State
  | [] => s.setAcu none
  | entry :: rest =>
    State.runEntries ((s.setAcu (some c)).takeEntry c entry) { c with index := c.index + 1 } rest

/-- The next entry of a RUNNING context: the context goes on to the entry after it, or to IDLE after the last (R70, R71). -/
def State.nextEntry (s : State) (c : ActionContext) : State :=
  match c.list.drop c.index with
  | [] => s.setAcu none
  | entry :: rest =>
    (s.takeEntry c entry).setAcu (match rest with
      | [] => none
      | _ :: _ => some { c with index := c.index + 1 })

/-- The action list that the Action Unit is running, taken to its end (R70). -/
def State.runContext (s : State) : State :=
  match s.acu with
  | some c => s.runEntries c (c.list.drop c.index)
  | none => s

/-! ### Firing one mark (R53 to R58) -/

/-- The arrival record names the mark now firing (R49). -/
def State.setFiring (s : State) (id : Option MarkId) : State :=
  s.setMks { s.mks with arrival := s.mks.arrival.map fun r => { r with firing := id } }

/-- The mark has been disarmed since the fire list was built (R53). -/
def State.disarmedSince (s : State) (id : MarkId) : Bool :=
  match s.mks.arrival with
  | some r => decide (id ∈ r.disarmed)
  | none => false

/-- The counting of a firing at tick `t` (R54). -/
def Mark.counted (m : Mark) (t : Tick) : Mark := { m with fires := bump m.fires, lastFire := some t }

/-- The state transition that ends a firing, unless the mark was disarmed during its own list (R56, R57, R58). -/
def State.transition (s : State) (id : MarkId) : State :=
  match s.mark id with
  | some m => if s.disarmedSince id then s else s.putMark (m.fired (s.axis m.axis).config)
  | none => s

/-- The MARK_FIRED report of mark `m`, counted, at an arrival at position `p` in direction `d` at tick `t` (R55). -/
def Mark.firedReport (m : Mark) (p : Int) (d : Direction) (t : Tick) : Report :=
  .markFired m.id m.axis p d t m.fires p

/-- The firing of mark `m` begins at tick `t`: it is counted and its action list handed to the Action Unit (R54, R70). -/
def State.beginFiring (s : State) (m : Mark) (t : Tick) : State :=
  ((s.putMark (m.counted t)).setFiring (some m.id)).setAcu (match m.actions with
    | [] => none
    | _ :: _ => some { mark := m.id, tick := t, list := m.actions, index := 0 })

/-- The firing of mark `id` ends, its list finished: MARK_FIRED report, state transition (R55 to R58). -/
def State.endFiring (s : State) (id : MarkId) (p : Int) (d : Direction) (t : Tick) : State :=
  match s.mark id with
  | some m => ((s.reportIf m.report (m.firedReport p d t)).transition id).setFiring none
  | none => s.setFiring none

/-- The mark now firing (R49). -/
def State.firing (s : State) : Option MarkId := s.mks.arrival.bind (·.firing)

/-- The firing in progress taken to its end (R54 to R58); none in progress, nothing. -/
def State.completeFiring (s : State) (p : Int) (d : Direction) (t : Tick) : State :=
  match s.firing with
  | some id => s.runContext.endFiring id p d t
  | none => s.runContext

/-- The turn of one id of the fire list begins: its mark fires if still eligible, else it is passed over (R53). -/
def State.beginTurn (s : State) (id : MarkId) (t : Tick) : State :=
  match s.mark id with
  | some m => if m.state = .armed ∧ !s.disarmedSince id then s.beginFiring m t else s
  | none => s

/-- The turns of the fire list that have not begun. -/
def State.setFireList (s : State) (ids : List MarkId) : State :=
  s.setMks { s.mks with arrival := s.mks.arrival.map fun r => { r with fireList := ids } }

/-- The fire phase (R53). -/
def State.firePhase (s : State) (p : Int) (d : Direction) (t : Tick) : List MarkId → State
  | [] => s
  | id :: rest =>
    State.firePhase (((s.setFireList rest).beginTurn id t).completeFiring p d t) p d t rest

/-! ### Arrivals (R49 to R52, R62, R64) -/

/-- The band phase of an arrival at position `p` of axis `a` (R51, R62). -/
def State.bandPhase (s : State) (a : Axis) (p : Int) : State :=
  s.setMarks (s.mks.marks.map fun m => if m.axis = a then m.bandCheck (s.axis a).config p else m)

/-- The direction qualifier of a mark accepts a direction (R52). -/
def Qualifier.accepts : Qualifier → Direction → Bool
  | .either, _ => true
  | .up, .up => true
  | .down, .down => true
  | _, _ => false

/-- The fire list: the ARMED marks of axis `a` whose current target is `p` and whose qualifier accepts `d`, in ascending id
order (R52). -/
def State.selectPhase (s : State) (a : Axis) (p : Int) (d : Direction) : List MarkId :=
  (s.mks.marks.filter fun m =>
    decide (m.axis = a ∧ m.state = .armed ∧ m.target = p) && m.qual.accepts d).map (·.id)

/-- The arrival record of the arrival being taken (R49). -/
def State.setArrival (s : State) (r : Option ArrivalRecord) : State := s.setMks { s.mks with arrival := r }

/-- The arrival being taken is taken to its end (R49, R53); none being taken, nothing. The events that R49 and R50 take before or
after a whole arrival do this first. -/
def State.settled (s : State) : State :=
  match s.mks.arrival with
  | none => s
  | some r =>
    match r.arrival with
    | .jump _ _ => s.setArrival none
    | .step p d t => ((s.completeFiring p d t).firePhase p d t r.fireList).setArrival none

/-- One stage of the arrival being taken: the next entry of the list that is running, or the end of a firing whose list is
finished, or the beginning of the next turn, or the end of the arrival (R53, R54, R71). -/
def State.stage (s : State) : State :=
  match s.mks.arrival with
  | none => s
  | some r =>
    match r.arrival with
    | .jump _ _ => s.setArrival none
    | .step p d t =>
      match s.acu, r.firing, r.fireList with
      | some c, _, _ => s.nextEntry c
      | none, some id, _ => s.endFiring id p d t
      | none, none, id :: rest => (s.setFireList rest).beginTurn id t
      | none, none, [] => s.setArrival none

/-- A number of stages of the arrival being taken. -/
def State.stages : Nat → State → State
  | 0, s => s
  | n + 1, s => State.stages n s.stage

/-- The arrival being taken goes on for a number of stages, or to its end (log entry 3). -/
def State.goOn (s : State) : Option Nat → State
  | none => s.settled
  | some n => s.stages n

/-- A step arrival begun: the run state read, the band phase, and in RUN the select phase (R50 to R52, R64). -/
def State.beginStepArrival (s : State) (a : Axis) (p : Int) (d : Direction) (t : Tick) : State :=
  let banded := (s.setArrival (some
    { axis := a, arrival := .step p d t, run := s.rnc.state, fireList := [], firing := none, disarmed := []
      reads := p })).bandPhase a p
  match s.rnc.state with
  | .hold => banded
  | .run => banded.setFireList (banded.selectPhase a p d)

/-- A jump arrival taken: the band phase only (R62). -/
def State.takeJumpArrival (s : State) (a : Axis) (p : Int) (t : Tick) : State :=
  ((s.setArrival (some
    { axis := a, arrival := .jump p t, run := s.rnc.state, fireList := [], firing := none, disarmed := []
      reads := p })).bandPhase a p).setArrival none

/-- The step arrival at the head of an axis's order is begun and goes on; no step arrival at the head, no event (R49; log entry
1). -/
def State.takeStepArrival (s : State) (a : Axis) (stages : Option Nat) : State :=
  match (s.axis a).arrivals with
  | .step p d t :: rest => ((s.setAxis a { s.axis a with arrivals := rest }).beginStepArrival a p d t).goOn stages
  | _ => s

/-- The arrival of axis `a` that is being taken goes on, or else the one at the head of its order is taken; an arrival of another
axis is taken to its end first (R49). -/
def State.stepArrival (stages : Option Nat) (a : Axis) (s : State) : State :=
  match s.mks.arrival with
  | some r => if r.axis = a then s.goOn stages else s.settled.takeStepArrival a stages
  | none => s.takeStepArrival a stages

/-- STEP_ARRIVAL (R49 to R61, R64). The number of stages is the head of the list of pauses, which the event uses up; with none
listed the arrival is taken to its end (log entry 3). -/
def execStepArrival (axis : Nat) (s : State) : Result :=
  onAxis axis s fun a t => State.stepArrival t.pauses.head?.join a (t.setPauses t.pauses.tail)

/-- The jump arrival at the head of an axis's order is taken, after the arrival being taken; no jump arrival at the head, no
event (R49; log entry 1). -/
def State.jumpArrival (a : Axis) (s : State) : State :=
  let u := s.settled
  match (u.axis a).arrivals with
  | .jump p t :: rest => (u.setAxis a { u.axis a with arrivals := rest }).takeJumpArrival a p t
  | _ => u

/-- JUMP_ARRIVAL (R62, R63). -/
def execJumpArrival (axis : Nat) (s : State) : Result := onAxis axis s State.jumpArrival

/-- The oldest strobe group arm request is taken, after the arrival being taken: in RUN its group is armed, in HOLD it is ignored (R104). -/
def State.strobeGroupArm (s : State) : State :=
  let u := s.settled
  match u.mks.groupArms with
  | [] => u
  | g :: rest =>
    let t := u.setMks { u.mks with groupArms := rest }
    match t.rnc.state with
    | .run => (t.armMembers g).1
    | .hold => t

/-- STROBE_GROUP_ARM (R104). -/
def execStrobeGroupArm (s : State) : Result := .next s.strobeGroupArm

end Sys2Proof.Machine
end

