-- ==== Sys2Proof/Machine/Strobes.lean ====
section
/-! DEFINITION. The Strobe Unit (spec 06): edges, qualification, strobe events, and the events STROBE_EDGE and
STROBE_QUALIFICATION_EXPIRY. -/

namespace Sys2Proof.Machine

/-- The edge that leaves a level (R100). -/
def Edge.leaving : Level → Edge
  | .low => .rising
  | .high => .falling

/-- The edge select names an edge (R100). -/
def EdgeSelect.selects : EdgeSelect → Edge → Bool
  | .both, _ => true
  | .rising, .rising => true
  | .falling, .falling => true
  | _, _ => false

/-- A strobe event of strobe `n`: the capture is offered, then the group arm is requested (R103). -/
def State.strobeEvent (s : State) (n : StrobeNo) (edge : Edge) (t : Tick) (positions : List Int) : State :=
  let c := (s.strobe n).config
  let offered := s.offerCapture { source := .strobe n edge, gap := false, tick := t, mask := c.mask, positions := positions }
  match c.armGroup with
  | none => offered
  | some g => offered.setMks { offered.mks with groupArms := offered.mks.groupArms ++ [g] }

/-- A selected edge starts a qualification: the positions are latched; with q 0 the event is taken at once (R101). -/
def State.startQualification (s : State) (n : StrobeNo) (edge : Edge) : State :=
  let b := s.strobe n
  let positions := s.positions b.config.mask
  if b.config.qual = 0 then s.strobeEvent n edge s.tick positions
  else
    s.setStrobe n
      { b with
        record := some
          { edge := edge, tick := s.tick, positions := positions
            endTick := endTick s.tick (Config.ticksPerMicro * b.config.qual) } }

/-- A return edge drops the pending record as a glitch (R102). -/
def Strobe.dropped (b : Strobe) : Strobe :=
  match b.record with
  | some _ => { b with record := none, glitches := bump b.glitches }
  | none => b

/-- An edge of strobe `n` (R100): the level follows the pin; a pending record is dropped; a selected edge starts a
qualification. -/
def State.strobeEdge (n : StrobeNo) (s : State) : State :=
  let b := s.strobe n
  let edge := Edge.leaving b.level
  let t := s.setStrobe n { b.dropped with level := b.level.flip }
  if b.config.edges.selects edge then t.startQualification n edge else t

/-- STROBE_EDGE (R100 to R103). -/
def execStrobeEdge (strobe : Nat) (s : State) : Result := onStrobe strobe s State.strobeEdge

/-- The expiry of a strobe's qualification timer: the pending record is taken as a strobe event (R102, R103). -/
def State.qualified (n : StrobeNo) (s : State) : State :=
  let b := s.strobe n
  match b.record with
  | some r =>
    if r.endTick = s.tick then
      (s.setStrobe n { b with record := none }).strobeEvent n r.edge r.tick r.positions
    else s
  | none => s

/-- STROBE_QUALIFICATION_EXPIRY (R102). -/
def execStrobeQualificationExpiry (strobe : Nat) (s : State) : Result := onStrobe strobe s State.qualified

end Sys2Proof.Machine
end

