-- ==== Sys2Proof/Machine/Reports.lean ====
section
/-! DEFINITION. The Report Queue (spec 08): the window and the offer, the first send and the resend, acknowledgement,
renumbering on SYNC, and the event ACK_TIMER_EXPIRY. -/

namespace Sys2Proof.Machine

/-! ### Send states (Table 8-2) -/

/-- AWAITING or RESEND: sent and unacknowledged (Table 8-2 note 1). -/
def SendState.sent : SendState → Bool
  | .unsent => false
  | .awaiting _ | .resend _ => true

/-- The send state is RESEND. -/
def SendState.resending : SendState → Bool
  | .resend _ => true
  | .unsent | .awaiting _ => false

/-- The sequence number of a sent record (Table 8-2). -/
def SendState.number : SendState → Option Byte
  | .unsent => none
  | .awaiting n | .resend n => some n

/-- What an expiry below the retry limit makes of a send state (R133). -/
def SendState.retried : SendState → SendState
  | .awaiting n => .resend n
  | .unsent => .unsent
  | .resend n => .resend n

/-- A record with another send state. -/
def ReportRecord.withSend (r : ReportRecord) (st : SendState) : ReportRecord := { r with send := st }

/-- The number of records AWAITING or RESEND (R127). -/
def ReportQueue.sentCount (q : ReportQueue) : Nat := (q.records.filter (·.send.sent)).length

/-- The end tick of the acknowledgement timer started or restarted at tick `t` (R132). -/
def ackEnd (p : LinkParams) (t : Tick) : Tick := endTick t (Config.ticksPerMilli * p.ack)

/-! ### Offering and sending (R127, R128) -/

/-- The record offered while the session is OPEN and the exhausted flag is clear: the oldest RESEND record, else within the
window the oldest UNSENT record (R127). -/
def ReportQueue.offered (q : ReportQueue) (p : LinkParams) : Option ReportRecord :=
  match q.records.find? (·.send.resending) with
  | some r => some r
  | none => if q.sentCount < p.window then q.records.find? (fun r => !r.send.sent) else none

/-- The record the Report Queue offers the Link Transmitter (R127, R129). -/
def State.offered (s : State) : Option ReportRecord :=
  if s.cmi.session = .opened ∧ s.rpq.exhausted = false then s.rpq.offered s.cmi.params else none

/-- The first record that meets `p`, with its send state replaced. -/
def sendFirst (p : ReportRecord → Bool) (st : SendState) : List ReportRecord → List ReportRecord
  | [] => []
  | r :: rest => if p r then r.withSend st :: rest else r :: sendFirst p st rest

/-- An offered UNSENT record taken at tick `t`: it takes the next sequence number, and the timer starts if no record was
sent before it (R128). -/
def ReportQueue.sendNew (q : ReportQueue) (p : LinkParams) (t : Tick) : ReportQueue :=
  { q with
    records := sendFirst (fun r => !r.send.sent) (.awaiting q.nextSeq) q.records
    nextSeq := q.nextSeq + 1
    ackTimer := if q.sentCount = 0 then some (ackEnd p t) else q.ackTimer }

/-- An offered RESEND record taken: its sequence number is kept, the timer is not touched (R128). -/
def ReportQueue.sendAgain (q : ReportQueue) (n : Byte) : ReportQueue :=
  { q with records := sendFirst (·.send.resending) (.awaiting n) q.records }

/-- The offered record taken for transmission: its sequence number and the queue after the taking (R128). -/
def ReportQueue.send (q : ReportQueue) (r : ReportRecord) (p : LinkParams) (t : Tick) : Byte × ReportQueue :=
  match r.send.number with
  | some n => (n, q.sendAgain n)
  | none => (q.nextSeq, q.sendNew p t)

/-! ### Acknowledgement (R130, R131) -/

/-- The sequence number O of the oldest sent record, or the next sequence number when none is sent (R130). -/
def ReportQueue.oldestNumber (q : ReportQueue) : Byte := (q.records.findSome? (·.send.number)).getD q.nextSeq

/-- How many records an ACK with number `n` removes; 0 when `n` is outside the span (R130). -/
def ReportQueue.ackCount (q : ReportQueue) (n : Byte) : Nat :=
  let d := (n - q.oldestNumber).toNat
  if d ≤ q.sentCount then d else 0

/-- An ACK with number `n` taken at tick `t` while the session is OPEN (R130, R131). -/
def ReportQueue.acknowledge (q : ReportQueue) (n : Byte) (p : LinkParams) (t : Tick) : ReportQueue :=
  if q.ackCount n = 0 then q
  else
    let rest := q.records.drop (q.ackCount n)
    { q with
      records := rest
      retries := 0
      ackTimer := if rest.any (·.send.sent) then some (ackEnd p t) else none }

/-- An ACK handed to the Report Queue; while the session is not OPEN it is ignored (R129, R130). -/
def State.takeAck (s : State) (n : Byte) : State :=
  if s.cmi.session = .opened then s.setRpq (s.rpq.acknowledge n s.cmi.params s.tick) else s

/-! ### The acknowledgement timer (R133, R134) -/

/-- An expiry with the retry count below the retry limit (R133). -/
def ReportQueue.retry (q : ReportQueue) (p : LinkParams) (t : Tick) : ReportQueue :=
  { q with
    retries := q.retries + 1
    records := q.records.map fun r => r.withSend r.send.retried
    ackTimer := some (ackEnd p t) }

/-- An expiry with the retry count at or above the retry limit: the session is given up (R134). -/
def ReportQueue.giveUp (q : ReportQueue) : ReportQueue :=
  { q with exhausted := true, ackTimer := none, signals := q.signals + 1 }

/-- The expiry of the acknowledgement timer at tick `t` (R133, R134). -/
def ReportQueue.expire (q : ReportQueue) (p : LinkParams) (t : Tick) : ReportQueue :=
  if q.retries < p.retryLimit then q.retry p t else q.giveUp

/-- ACK_TIMER_EXPIRY (R133, R134): it happens when the counter reaches the timer's end tick (R2; log entry 1). -/
def execAckTimerExpiry (s : State) : Result :=
  .next (if due s.rpq.ackTimer s.tick then s.setRpq (s.rpq.expire s.cmi.params s.tick) else s)

/-! ### SYNC (R135) -/

/-- The renumbering on SYNC (R135). -/
def ReportQueue.renumber (q : ReportQueue) : ReportQueue :=
  { q with
    records := q.records.map fun r => r.withSend .unsent
    nextSeq := 0
    retries := 0
    ackTimer := none
    exhausted := false }

/-- What the Report Queue does when the session leaves OPEN for LOST (R129). -/
def ReportQueue.sessionLost (q : ReportQueue) : ReportQueue := { q with ackTimer := none }

end Sys2Proof.Machine
end

