-- ==== Sys2Proof/Machine/RunControl.lean ====
section
/-! DEFINITION. Entering HOLD (spec 07 R116), session loss (spec 10 R158), and the events ACK_TIMEOUT_SIGNAL,
SILENCE_TIMER_EXPIRY and HELLO_BEACON_EXPIRY. -/

namespace Sys2Proof.Machine

/-- An entry into HOLD with cause `c`: the run state and cause, the drive to the safe levels, the RUN_STATE report (R116,
R120). -/
def State.enterHold (s : State) (c : HoldCause) : State :=
  (s.setRnc { state := .hold, cause := c }).driveSafe.report (.runState .hold c s.tick)

/-- The end tick of the HELLO beacon timer started at tick `t` (R153). -/
def beaconEnd (t : Tick) : Tick := endTick t Config.beaconTicks

/-- What the Command Interpreter does to its own state at a session loss at tick `t` (R158 steps 1 to 3). -/
def CommandInterpreter.lose (c : CommandInterpreter) (t : Tick) : CommandInterpreter :=
  { c with session := .lost, silenceTimer := none, beaconTimer := some (beaconEnd t) }

/-- A session loss with its cause, taken after the arrival being taken (R158, R50). -/
def State.loseSession (s : State) (cause : HoldCause) : State :=
  let u := s.settled
  ((u.setCmi (u.cmi.lose u.tick)).setRpq u.rpq.sessionLost).enterHold cause

/-- The oldest ACK_TIMEOUT signal is taken: in OPEN, with the exhausted flag set, it makes a session loss; else it changes
nothing (R158, Table 10-3). -/
def State.ackTimeoutSignal (s : State) : State :=
  match s.rpq.signals with
  | 0 => s
  | n + 1 =>
    let t := s.setRpq { s.rpq with signals := n }
    if s.cmi.session = .opened ∧ s.rpq.exhausted = true then t.loseSession .ackTimeout else t

/-- ACK_TIMEOUT_SIGNAL (R158). With no signal raised there is no such event (log entry 1). -/
def execAckTimeoutSignal (s : State) : Result := .next s.ackTimeoutSignal

/-- The expiry of the silence timer in OPEN (R157). -/
def State.silenceExpiry (s : State) : State :=
  if due s.cmi.silenceTimer s.tick ∧ s.cmi.session = .opened then s.loseSession .linkSilent else s

/-- SILENCE_TIMER_EXPIRY (R157). -/
def execSilenceTimerExpiry (s : State) : Result := .next s.silenceExpiry

/-- A call for a HELLO (R148, R153). -/
def State.callHello (s : State) : State := s.setLtx { s.ltx with helloPending := true }

/-- The expiry of the HELLO beacon timer in NO_SESSION or LOST: a HELLO is called for and the timer restarts (R153). -/
def State.beaconExpiry (s : State) : State :=
  if due s.cmi.beaconTimer s.tick ∧ s.cmi.session ≠ .opened then
    (s.setCmi { s.cmi with beaconTimer := some (beaconEnd s.tick) }).callHello
  else s

/-- HELLO_BEACON_EXPIRY (R153). -/
def execHelloBeaconExpiry (s : State) : Result := .next s.beaconExpiry

end Sys2Proof.Machine
end

