-- ==== Sys2Proof/Machine/Link.lean ====
section
/-! DEFINITION. The serial link (spec 09): characters from samples, frame reception and its discards, the hand-off of valid
frames, transmission, and the two resets as events. -/

namespace Sys2Proof.Machine

/-! ### Link times (R138) -/

/-- The link rate in bit/s (R138). -/
def LinkRate.bitsPerSecond : LinkRate → Nat
  | .bps115200 => 115200
  | .bps1000000 => 1000000
  | .bps3000000 => 3000000
  | .bps6000000 => 6000000

/-- A time of `ticks` ticks holds `bits` whole bit times at a link rate (R1, R138; log entry 10). -/
def LinkRate.holds (r : LinkRate) (ticks bits : Nat) : Bool :=
  decide (bits * Config.ticksPerSecond ≤ ticks * r.bitsPerSecond)

/-! ### Characters (R139) -/

/-- The level of a bit cell: the one that at least two of its three samples show (R139). -/
def cellLevel (x y z : Level) : Level := if x = y then x else z

/-- What the receiver makes of the ten bit cells that follow a change of RXD from HIGH to LOW. -/
inductive CellsResult where
  /-- The start bit reads HIGH: no character. -/
  | falseStart
  /-- A character and its framing-error mark. -/
  | character (value : Byte) (mark : Bool)
deriving DecidableEq, Repr

/-- The value of the data bits, least significant first (R138). -/
def dataValue : List Level → Nat
  | [] => 0
  | b :: rest => Level.code b + 2 * dataValue rest

/-- The character of a start cell, eight data cells and a stop cell (R139). The model takes characters whole: the samples
themselves are outside it (log entry 12). -/
def characterOfCells (start : Level) (data : List Level) (stop : Level) : CellsResult :=
  match start with
  | .high => .falseStart
  | .low => .character (BitVec.ofNat 8 (dataValue data)) (decide (stop = .low))

/-! ### Reception (R141 to R143) -/

/-- The receiver back in HUNT, its buffer emptied and its gap timer stopped (R143, Table 9-1 note 1). -/
def LinkReceiver.toHunt (r : LinkReceiver) : LinkReceiver :=
  { r with state := .hunt, buffer := .empty, gapTimer := none }

/-- A discard with its cause (R146). -/
def LinkReceiver.discard (r : LinkReceiver) (cause : DiscardCause) : LinkReceiver :=
  { r.toHunt with stats := r.stats.count cause }

/-- What the Link Receiver signals to the other blocks after a character: an accepted ACK with its number, or an accepted
SYNC or COMMAND (R144). -/
inductive Accepted where
  | ack (n : Byte)
  | queued
deriving DecidableEq, Repr

/-- The hand-off of a SYNC or COMMAND (R144). -/
def LinkReceiver.enqueue (r : LinkReceiver) (e : Entry) : LinkReceiver × Option Accepted :=
  if r.inbound.length < Config.inboundCapacity then ({ r.toHunt with inbound := r.inbound ++ [e] }, some .queued)
  else (r.discard .overrun, none)

/-- A complete frame: the checks FRAMING, CRC and KIND in this order, and the hand-off (R143, R144). -/
def LinkReceiver.complete (r : LinkReceiver) (b : Assembly) : LinkReceiver × Option Accepted :=
  if b.mark then (r.discard .framing, none)
  else if b.received ≠ b.running then (r.discard .crc, none)
  else if b.kind = ackCode then (r.toHunt, some (.ack b.seq))
  else if b.kind = commandCode then r.enqueue { kind := .command, seq := b.seq, payload := b.payload }
  else if b.kind = syncCode then r.enqueue { kind := .sync, seq := b.seq, payload := b.payload }
  else (r.discard .kind, none)

/-- The buffer after a character of a frame, entered into the running CRC and with its mark kept (R141, R142). -/
def Assembly.enter (b : Assembly) (value : Byte) (mark : Bool) : Assembly :=
  { b with running := crcByte b.running value, mark := b.mark || mark }

/-- A character of a frame stored at tick `t`: the gap timer is restarted (R142). -/
def LinkReceiver.stored (r : LinkReceiver) (st : RxState) (b : Assembly) (t : Tick) : LinkReceiver :=
  { r with state := st, buffer := b, gapTimer := some t }

/-- A header character (Table 9-1). -/
def LinkReceiver.takeHeader (r : LinkReceiver) (value : Byte) (mark : Bool) (t : Tick) : LinkReceiver :=
  let b := r.buffer.enter value mark
  match r.buffer.headerCount with
  | 0 => r.stored .header { b with kind := value, headerCount := 1 } t
  | 1 => r.stored .header { b with seq := value, headerCount := 2 } t
  | _ =>
    if Config.maxPayload < value.toNat then r.discard .length
    else r.stored (if value = 0 then .check else .payload) { b with length := value, headerCount := 3 } t

/-- A payload character (Table 9-1). -/
def LinkReceiver.takePayload (r : LinkReceiver) (value : Byte) (mark : Bool) (t : Tick) : LinkReceiver :=
  let b := { r.buffer.enter value mark with payload := r.buffer.payload ++ [value] }
  r.stored (if b.payload.length < b.length.toNat then .payload else .check) b t

/-- A CRC character (Table 9-1). -/
def LinkReceiver.takeCheck (r : LinkReceiver) (value : Byte) (mark : Bool) (t : Tick) :
    LinkReceiver × Option Accepted :=
  let b := { r.buffer with mark := r.buffer.mark || mark }
  match b.crcCount with
  | 0 => (r.stored .check { b with crcCount := 1, received := value.setWidth 16 } t, none)
  | _ => r.complete { b with crcCount := 2, received := (value ++ b.received.setWidth 8 : BitVec 16) }

/-- A character delivered to the framing logic at tick `t` (R141, Table 9-1). -/
def LinkReceiver.frame (r : LinkReceiver) (value : Byte) (mark : Bool) (t : Tick) : LinkReceiver × Option Accepted :=
  match r.state with
  | .hunt =>
    if value = Config.startCode ∧ mark = false then (r.stored .header .empty t, none) else (r, none)
  | .header => (r.takeHeader value mark t, none)
  | .payload => (r.takePayload value mark t, none)
  | .check => r.takeCheck value mark t

/-- What the character receiver watches for after a character: RXD HIGH after a framing error, else the next start bit
(R139). -/
def LinkReceiver.afterCharacter (r : LinkReceiver) (mark : Bool) : LinkReceiver :=
  { r with line := if mark then .waitHigh else .watching }

/-! ### The silence timer (R157) -/

/-- The silence timer started or restarted at tick `t`; a timeout of 0 leaves it stopped (R152, R157, R160). -/
def silenceEnd (p : LinkParams) (t : Tick) : Option Tick :=
  if p.silence = 0 then none else some (endTick t (Config.ticksPerMilli * p.silence))

/-- The signal that a frame was accepted (R144, R157). -/
def State.frameAccepted (s : State) : State :=
  if s.cmi.session = .opened ∧ s.cmi.params.silence ≠ 0 then
    s.setCmi { s.cmi with silenceTimer := silenceEnd s.cmi.params s.tick }
  else s

/-- What the Report Queue and the Command Interpreter do with what the Link Receiver accepted (R144). -/
def State.handOn (s : State) : Option Accepted → State
  | none => s
  | some (.ack n) => (s.takeAck n).frameAccepted
  | some .queued => s.frameAccepted

/-! ### The events of the Link Receiver -/

/-- A character delivered by the character receiver. -/
def State.character (s : State) (value : Byte) (mark : Bool) : State :=
  let r := (s.lrx.afterCharacter mark).frame value mark s.tick
  (s.setLrx r.1).handOn r.2

/-- CHARACTER_RECEIVED (R139, R141 to R144): a character can be delivered while the receiver watches for a start bit or is in
a character, not while it waits for RXD HIGH (log entries 1 and 11). -/
def execCharacterReceived (value : Byte) (mark : Bool) (s : State) : Result :=
  .next (match s.lrx.line with
    | .waitHigh => s
    | .watching | .inCharacter => s.character value mark)

/-- The gap timer has run for 20 character times, in HEADER, PAYLOAD or CHECK (R142). -/
def State.gapDue (s : State) : Bool :=
  match s.lrx.gapTimer with
  | some t => decide (s.lrx.state ≠ .hunt) && s.lrx.rate.holds (elapsed s.tick t) Config.gapBits
  | none => false

/-- GAP_TIMER_EXPIRY (R142): the frame is discarded with cause GAP. Before its time there is no expiry (log entries 1 and 10). -/
def execGapTimerExpiry (s : State) : Result :=
  .next (if s.gapDue then s.setLrx (s.lrx.discard .gap) else s)

/-- START_BIT_CONFIRMED (R139, R142): the gap timer is stopped. -/
def execStartBitConfirmed (s : State) : Result :=
  .next (match s.lrx.line with
    | .watching => s.setLrx { s.lrx with line := .inCharacter, gapTimer := none }
    | .waitHigh | .inCharacter => s)

/-- RXD_RETURNS_HIGH (R139, R141): the receiver watches for the next start bit. -/
def execRxdReturnsHigh (s : State) : Result :=
  .next (match s.lrx.line with
    | .waitHigh => s.setLrx { s.lrx with line := .watching }
    | .watching | .inCharacter => s)

/-! ### Transmission (R147, R148) -/

/-- The REPLY frame of a reply (R148). -/
def Reply.frame (r : Reply) : TxFrame := { kind := .reply, seq := r.seq, payload := r.payload }

/-- The HELLO frame built from the present values (R148, R153). -/
def State.helloFrame (s : State) : TxFrame := { kind := .hello, seq := 0, payload := helloPayload s.cmi s.rnc }

/-- The transmitter SENDING a frame from tick `t` on, no byte of it sent yet (R147). -/
def LinkTransmitter.start (x : LinkTransmitter) (f : TxFrame) (t : Tick) : LinkTransmitter :=
  { x with sending := some { frame := f, sent := 0, started := t } }

/-- The choice of the idle transmitter: the reply, then a HELLO, then the offered record (R147); with none present it stays
IDLE. -/
def State.takeFrame (s : State) : State :=
  match s.ltx.slot with
  | some r => s.setLtx (s.ltx.start r.frame s.tick)
  | none =>
    if s.ltx.helloPending then
      s.setLtx { s.ltx.start s.helloFrame s.tick with helloPending := false }
    else
      match s.offered with
      | none => s
      | some r =>
        let taken := s.rpq.send r s.cmi.params s.tick
        (s.setRpq taken.2).setLtx
          (s.ltx.start { kind := .report, seq := taken.1, payload := reportPayload r } s.tick)

/-- TX_TAKE_FRAME (R147, R128): taken by an IDLE transmitter (log entry 1). -/
def execTxTakeFrame (s : State) : Result :=
  .next (match s.ltx.sending with
    | none => s.takeFrame
    | some _ => s)

/-! ### Resets (R149, R150, R163) -/

/-- A reset of either cause: every block at its reset values; the model's own three fields are kept (log entry 17). -/
def State.resetPart (s : State) (cause : ResetCause) (pins : ResetPins) : State :=
  (((State.afterReset cause pins).setPending s.pending).setPauses s.pauses).setFreeIndex s.freeIndex

/-- HARD_RESET (R149, R150). -/
def execHardReset (pins : ResetPins) (s : State) : Result := .next (s.resetPart .hard pins)

/-- The last byte of the frame on the line has left: a REPLY empties the slot, and makes the command reset if one is due
(R148, R149, R163). -/
def State.frameDone (s : State) (pins : ResetPins) (x : Sending) : State :=
  match x.frame.kind with
  | .reply =>
    if s.cmi.resetDue then s.resetPart .command pins
    else s.setLtx { s.ltx with slot := none, sending := none }
  | .report | .hello => s.setLtx { s.ltx with sending := none }

/-- The frame on the line has occupied TXD for ten bit times a byte (R147). -/
def State.frameDue (s : State) : Bool :=
  match s.ltx.sending with
  | some x => s.lrx.rate.holds (elapsed s.tick x.started) (Config.characterBits * x.frame.bytes.length)
  | none => false

/-- TX_FRAME_DONE (R147, R148, R149, R163). The pins and straps matter only if it makes a command reset. While the frame's last byte has
not left there is no such event (log entries 1 and 10). -/
def execTxFrameDone (pins : ResetPins) (s : State) : Result :=
  .next (match s.ltx.sending with
    | some x => if s.frameDue then s.frameDone pins x else s
    | none => s)

end Sys2Proof.Machine
end

