-- ==== Sys2Proof/Machine/Session.lean ====
section
/-! DEFINITION. Sessions and the taking of commands (spec 10): the event SYNC, the row that a COMMAND is, the reply cache, and
what every command's execution answers. -/

namespace Sys2Proof.Machine

/-! ### The row of a command (Table 11-2) -/

/-- The command a code names; none when it names none (Table 11-2). -/
def commandOf (code : Byte) : Option Instr :=
  match code.toNat with
  | 0x01 => some .ping
  | 0x02 => some .getInfo
  | 0x03 => some .setLink
  | 0x04 => some .getStatus
  | 0x05 => some .getLinkStats
  | 0x06 => some .maskReports
  | 0x07 => some .resetPart
  | 0x08 => some .run
  | 0x09 => some .hold
  | 0x10 => some .configAxis
  | 0x11 => some .presetAxis
  | 0x12 => some .readAxes
  | 0x13 => some .clearAxisFault
  | 0x14 => some .homeAxis
  | 0x20 => some .defineMark
  | 0x21 => some .deleteMark
  | 0x22 => some .armMarks
  | 0x23 => some .disarmMarks
  | 0x24 => some .armGroup
  | 0x25 => some .disarmGroup
  | 0x26 => some .moveMark
  | 0x27 => some .readMark
  | 0x28 => some .listMarks
  | 0x30 => some .configLine
  | 0x31 => some .driveLine
  | 0x32 => some .readLines
  | 0x40 => some .configStrobe
  | 0x41 => some .readStrobes
  | 0x42 => some .captureNow
  | 0x43 => some .readCaptures
  | 0x44 => some .flushCaptures
  | _ => none

/-- The row of the opcode table that the taking of a COMMAND with this payload is: its command, or UNKNOWN_COMMAND for an
empty payload and for a code that names no command (R156). -/
def commandRow : List Byte → Instr
  | [] => .unknownCommand
  | code :: _ => (commandOf code).getD .unknownCommand

/-- The row that the taking of an inbound entry is (R152, R154). -/
def Entry.row (e : Entry) : Instr :=
  match e.kind with
  | .sync => .sync
  | .command => commandRow e.payload

/-- The command code a REPLY carries: that of the command, or 0x00 for an empty payload (R155, R156). -/
def replyCode : List Byte → Byte
  | [] => 0
  | code :: _ => code

/-! ### Answers (R156, Table 11-4) -/

/-- What the execution of a command leaves and answers. -/
structure Answer where
  state : State
  status : Status
  /-- The data from offset 2; a refusal has none (11.3). -/
  data : List Byte

/-- A command refused with a status, nothing changed. -/
def State.refuse (s : State) (st : Status) : Answer := { state := s, status := st, data := [] }

/-- A command executed with status OK and its data. -/
def State.answer (s : State) (data : List Byte) : Answer := { state := s, status := .ok, data := data }

/-- A REPLY payload: command code, status, data (11.3). -/
def replyPayload (payload : List Byte) (st : Status) (data : List Byte) : List Byte :=
  replyCode payload :: BitVec.ofNat 8 st.code :: data

/-- A REPLY placed in the reply slot (R148). -/
def State.placeReply (s : State) (r : Reply) : State := s.setLtx { s.ltx with slot := some r }

/-- The reply cache replaced by a reply (R156). -/
def State.cacheReply (s : State) (r : Reply) : State := s.setCmi { s.cmi with cache := some r }

/-- The cached reply to a sequence number, if the cache holds one (R156). -/
def State.cachedReply (s : State) (seq : Byte) : Option Reply := s.cmi.cache.filter fun r => decide (r.seq = seq)

/-! ### Taking an entry (R154) -/

/-- The entry that the Command Interpreter takes as the event of a row: the head of the inbound queue, when the reply slot is
EMPTY and the entry is of that row (R154; log entries 1 and 4). -/
def State.entryFor (s : State) (row : Instr) : Option Entry :=
  match s.lrx.inbound, s.ltx.slot with
  | e :: _, none => if e.row = row then some e else none
  | _, _ => none

/-- The entry at the head removed from the inbound queue (R154). -/
def State.dropEntry (s : State) : State := s.setLrx { s.lrx with inbound := s.lrx.inbound.tail }

/-- A command executed in OPEN: its answer is placed in the reply slot and cached (R156). -/
def State.executeEntry (s : State) (e : Entry) (body : List Byte → State → Answer) : State :=
  let a := body e.payload s
  let r : Reply := { seq := e.seq, payload := replyPayload e.payload a.status a.data }
  (a.state.placeReply r).cacheReply r

/-- A COMMAND taken out of the queue (R155, R156). Between a session loss and the SYNC after it no COMMAND is executed, DRIVE_LINE
included: the DRIVE_LINE that R92 takes on a HOST line after a loss is read as one that is executed, behind the SYNC (log entry 23). -/
def State.answerEntry (s : State) (e : Entry) (body : List Byte → State → Answer) : State :=
  match s.cmi.session with
  | .noSession => s.placeReply { seq := e.seq, payload := replyPayload e.payload .noSession [] }
  | .lost => s.placeReply { seq := e.seq, payload := replyPayload e.payload .sessionLost [] }
  | .opened =>
    match s.cachedReply e.seq with
    | some r => s.placeReply r
    | none => s.executeEntry e body

/-- The taking of a COMMAND as the event of a row whose execution is `body`, a function of the whole payload. -/
def State.takeCommand (row : Instr) (body : List Byte → State → Answer) (s : State) : State :=
  match s.entryFor row with
  | some e => s.dropEntry.answerEntry e body
  | none => s

/-- The taking of a named command whose execution is a function of its operands, the payload after the command code (Table
11-2). -/
def takeNamed (row : Instr) (body : List Byte → State → Answer) (s : State) : Result :=
  .next (s.takeCommand row (fun payload => body payload.tail))

/-- The taking of a named command that R49, R50 or R65 takes before or after a whole arrival: an arrival being taken is taken to its
end first. -/
def takeWhole (row : Instr) (body : List Byte → State → Answer) (s : State) : Result :=
  takeNamed row (fun operands t => body operands t.settled) s

/-! ### SYNC (R152) -/

/-- The epoch after a SYNC (R152 step 1). -/
def nextEpoch (e : Byte) : Byte := if e = 255 then 1 else e + 1

/-- What the Command Interpreter does to its own state at a SYNC taken at tick `t` (R152 steps 1 to 5). -/
def CommandInterpreter.openAt (c : CommandInterpreter) (t : Tick) : CommandInterpreter :=
  { c with
    epoch := nextEpoch c.epoch
    cache := none
    session := .opened
    silenceTimer := silenceEnd c.params t
    beaconTimer := none }

/-- A SYNC taken (R152). -/
def State.openSession (s : State) : State :=
  ((s.setCmi (s.cmi.openAt s.tick)).setRpq s.rpq.renumber).callHello

/-- SYNC (R152): the SYNC entry at the head of the inbound queue is taken, the reply slot being EMPTY (R154; log entry 1). -/
def execSync (s : State) : Result :=
  .next (match s.entryFor .sync with
    | some _ => s.dropEntry.openSession
    | none => s)

/-! ### UNKNOWN_COMMAND (R156) -/

/-- An empty payload is BAD_LENGTH, any other is UNKNOWN_COMMAND (R156 checks 1 and 2). -/
def unknownCommandAnswer : List Byte → State → Answer
  | [], s => s.refuse .badLength
  | _ :: _, s => s.refuse .unknownCommand

/-- UNKNOWN_COMMAND (R156). -/
def execUnknownCommand (s : State) : Result := .next (s.takeCommand .unknownCommand unknownCommandAnswer)

end Sys2Proof.Machine
end

