-- ==== Sys2Proof/Machine/AxisCommands.lean ====
section
/-! DEFINITION. The axis commands (spec 01.8): CONFIG_AXIS, PRESET_AXIS, READ_AXES, CLEAR_AXIS_FAULT, HOME_AXIS. -/

namespace Sys2Proof.Machine

/-- Every axis of a mask changed by `f`. -/
def State.updateAxes (s : State) (mask : BitVec 8) (f : AxisUnit → AxisUnit) : State :=
  s.setAxes (Vector.ofFn fun n : Fin 8 => if mask.getLsbD n.val then f s.axes[n.val] else s.axes[n.val])

/-- The chain of sources from axis `b` meets axis `a`; it ends at the first axis not in mode REVS (R4 check 6). The fuel is the
number of axes. -/
def State.chainMeets (s : State) (a : Axis) : Nat → Axis → Bool
  | 0, _ => false
  | fuel + 1, b =>
    if b = a then true
    else
      match (s.axis b).config.mode with
      | .revs => s.chainMeets a fuel (s.axis b).config.source
      | .off | .quadX1 | .quadX2 | .quadX4 | .stepDir | .upDown | .timebase => false

/-- The checks of a REVS record against the other axes (R4 checks 5 and 6). -/
def State.sourceFits (s : State) (a : Axis) (c : AxisConfig) : Bool :=
  match c.mode with
  | .revs =>
    decide (c.source ≠ a ∧ (s.axis c.source).config.kind = .rotary ∧ (s.axis c.source).config.mode ≠ .off)
      && !s.chainMeets a Config.revsDepth c.source
  | .off | .quadX1 | .quadX2 | .quadX4 | .stepDir | .upDown | .timebase => true

/-- The axis is the source of a REVS axis that the new record would break (R22 check 1). -/
def State.breaksSource (s : State) (a : Axis) (c : AxisConfig) : Bool :=
  decide (c.mode = .off ∨ c.kind ≠ .rotary) && allAxes.any fun b => s.countsWrapsOf a b

/-- A mark on the axis is ARMED or REARMING (R22 check 2). -/
def State.axisBusy (s : State) (a : Axis) : Bool := s.mks.marks.any fun m => decide (m.axis = a) && m.active

/-- CONFIG_AXIS for axis `a` after the field checks (R4 checks 5 and 6, R22). -/
def State.configAxis (s : State) (a : Axis) (c : AxisConfig) : Answer :=
  if !s.sourceFits a c then s.refuse .badArgument
  else if s.breaksSource a c then s.refuse .inUse
  else if s.axisBusy a then s.refuse .axisBusy
  else (s.setAxis a ((s.axis a).configure c s.tick)).answer []

/-- CONFIG_AXIS with its operands (R4, R22, Table 11-2). -/
def configAxisAnswer (operands : List Byte) (s : State) : Answer :=
  match operands with
  | [axis, mode, invert, kind, m0, m1, m2, m3, filter, d0, d1, source, indexMode, indexQual, x0, x1, x2, x3, p0, p1, p2,
      p3] =>
    let fields : AxisFields :=
      { mode, invert, kind, modulus := le32 m0 m1 m2 m3, filter := filter.toNat, divisor := le16 d0 d1, source,
        indexMode, indexQual, indexPreset := leInt x0 x1 x2 x3, initial := leInt p0 p1 p2 p3 }
    match axisOf axis, fields.config with
    | some a, some c => s.configAxis a c
    | _, _ => s.refuse .badArgument
  | _ => s.refuse .badLength

/-- CONFIG_AXIS (R4, R22). -/
def execConfigAxis (s : State) : Result := takeWhole .configAxis configAxisAnswer s

/-- A value may be given to an axis by PRESET_AXIS or HOME_AXIS: the axis is not OFF and the value is in its range (R23,
R26). -/
def State.settable (s : State) (a : Axis) (v : Int) : Bool :=
  decide ((s.axis a).config.mode ≠ .off) && (s.axis a).config.inRange v

/-- PRESET_AXIS with its operands (R23). -/
def presetAxisAnswer (operands : List Byte) (s : State) : Answer :=
  match operands with
  | [axis, v0, v1, v2, v3] =>
    match axisOf axis with
    | none => s.refuse .badArgument
    | some a =>
      if s.settable a (leInt v0 v1 v2 v3) then
        (s.setAxis a { (s.axis a).preset (leInt v0 v1 v2 v3) s.tick with limitFlag := false }).answer
          (putPos (s.axis a).pos)
      else s.refuse .badArgument
  | _ => s.refuse .badLength

/-- PRESET_AXIS (R23). -/
def execPresetAxis (s : State) : Result := takeNamed .presetAxis presetAxisAnswer s

/-- An axis unit with its phase-error count cleared (R24). -/
def AxisUnit.clearCount (u : AxisUnit) : AxisUnit := { u with phaseErrors := 0 }

/-- READ_AXES with its operands (R24, Table 11-4). -/
def readAxesAnswer (operands : List Byte) (s : State) : Answer :=
  match operands with
  | [mask, flag] =>
    match flagOf flag with
    | none => s.refuse .badArgument
    | some clear =>
      if mask = 0 then s.refuse .badArgument
      else
        (if clear then s.updateAxes mask AxisUnit.clearCount else s).answer
          (putTick s.tick ++ (maskAxes mask).flatMap fun a => putAxis (s.axis a))
  | _ => s.refuse .badLength

/-- READ_AXES (R24). -/
def execReadAxes (s : State) : Result := takeNamed .readAxes readAxesAnswer s

/-- An axis unit with its two fault flags cleared (R25). -/
def AxisUnit.clearFault (u : AxisUnit) : AxisUnit := { u with phaseFlag := false, limitFlag := false }

/-- CLEAR_AXIS_FAULT with its operands (R25). -/
def clearAxisFaultAnswer (operands : List Byte) (s : State) : Answer :=
  match operands with
  | [mask] =>
    if mask = 0 then s.refuse .badArgument
    else
      (s.updateAxes mask AxisUnit.clearFault).answer
        [mask &&& axisSet fun a => (s.axis a).phaseFlag, mask &&& axisSet fun a => (s.axis a).limitFlag]
  | _ => s.refuse .badLength

/-- CLEAR_AXIS_FAULT (R25). -/
def execClearAxisFault (s : State) : Result := takeNamed .clearAxisFault clearAxisFaultAnswer s

/-- An axis unit waiting for its index at value `v` (R26). -/
def AxisUnit.armHome (u : AxisUnit) (v : Int) : AxisUnit :=
  { u with config := { u.config with indexMode := .homeOnce, indexPreset := v }, home := .homeArmed }

/-- HOME_AXIS with its operands (R26). -/
def homeAxisAnswer (operands : List Byte) (s : State) : Answer :=
  match operands with
  | [axis, v0, v1, v2, v3] =>
    match axisOf axis with
    | none => s.refuse .badArgument
    | some a =>
      if s.settable a (leInt v0 v1 v2 v3) then
        (s.setAxis a ((s.axis a).armHome (leInt v0 v1 v2 v3))).answer []
      else s.refuse .badArgument
  | _ => s.refuse .badLength

/-- HOME_AXIS (R26). -/
def execHomeAxis (s : State) : Result := takeNamed .homeAxis homeAxisAnswer s

end Sys2Proof.Machine
end

