-- ==== Sys2Proof/Machine/LineCommands.lean ====
section
/-! DEFINITION. The line commands (spec 05.5): CONFIG_LINE, DRIVE_LINE, READ_LINES. -/

namespace Sys2Proof.Machine

/-- The data of CONFIG_LINE: what the line held just before (R93, Table 11-4). -/
def lineBefore (l : Line) : List Byte :=
  put8 l.owner.code ++ put8 (Level.code l.safe) ++ put8 l.policy.code ++ put8 (Level.code l.level) ++ putFlag l.pulse.isSome

/-- CONFIG_LINE with its operands (R93). -/
def configLineAnswer (operands : List Byte) (s : State) : Answer :=
  match operands with
  | [line, owner, safe, policy] =>
    match lineOf line, Owner.ofByte owner, levelOf safe, Policy.ofByte policy with
    | some n, some o, some v, some p => (s.setLine n ((s.line n).configure o v p)).answer (lineBefore (s.line n))
    | _, _, _, _ => s.refuse .badArgument
  | _ => s.refuse .badLength

/-- CONFIG_LINE (R93). -/
def execConfigLine (s : State) : Result := takeNamed .configLine configLineAnswer s

/-- The data of DRIVE_LINE for the line after the command: a pulse in flight after it has just been started (R94). -/
def lineAfter (l : Line) (t : Tick) : List Byte :=
  put8 (Level.code l.level) ++ put32 ((l.pulse.map (·.microsLeft t)).getD 0)

/-- DRIVE_LINE of line `n` (R94 checks 2 and 3). After a reset it acts on a line the host has not configured since, its owner being
HOST: the line requests that R97 holds back until then are read as those of action lists, which R86 refuses on a HOST line (log entry 24). -/
def State.driveLine (s : State) (n : LineNo) (r : LineRequest) : Answer :=
  match (s.line n).request .host r s.tick with
  | .notOwner => s.refuse .notOwner
  | .busy l => (s.setLine n l).refuse .lineBusy
  | .taken l => (s.setLine n l).answer (lineAfter l s.tick)

/-- DRIVE_LINE with its operands (R94). -/
def driveLineAnswer (operands : List Byte) (s : State) : Answer :=
  match operands with
  | [line, operation, level, w0, w1, w2, w3] =>
    match lineOf line, lineRequestOf operation level (le32 w0 w1 w2 w3) with
    | some n, some r => s.driveLine n r
    | _, _ => s.refuse .badArgument
  | _ => s.refuse .badLength

/-- DRIVE_LINE (R94). -/
def execDriveLine (s : State) : Result := takeNamed .driveLine driveLineAnswer s

/-- One line of a READ_LINES reply (R96, Table 11-4). -/
def putLine (l : Line) (t : Tick) (fresh : Nat) (n : LineNo) : List Byte :=
  put8 l.owner.code ++ put8 (Level.code l.safe) ++ put8 l.policy.code ++ put8 (Level.code l.level)
    ++ put8 ((l.pulse.map fun p => Level.code p.level).getD 0) ++ put32 ((l.pulse.map fun p => p.remaining t fresh n).getD 0)
    ++ put16 l.collisions

/-- A line with its collision count cleared (R96). -/
def Line.clearCount (l : Line) : Line := { l with collisions := 0 }

/-- The data of READ_LINES (R96). -/
def linesData (s : State) : List Byte := allLines.flatMap fun n => putLine (s.line n) s.tick s.freeIndex n

/-- READ_LINES with its operands (R96). Each read uses up one number of the free values (log entry 5). -/
def readLinesAnswer (operands : List Byte) (s : State) : Answer :=
  match operands with
  | [flag] =>
    match flagOf flag with
    | none => s.refuse .badArgument
    | some clear =>
      ((if clear then s.setLines (mapUnits Line.clearCount s.lines) else s).setFreeIndex (s.freeIndex + 1)).answer
        (linesData s)
  | _ => s.refuse .badLength

/-- READ_LINES (R96). -/
def execReadLines (s : State) : Result := takeNamed .readLines readLinesAnswer s

end Sys2Proof.Machine
end

