-- ==== Sys2Proof/Machine/LinkCommands.lean ====
section
/-! DEFINITION. The commands of the link, of reports, of reset and of Run Control (spec 10.5, R123, R117, R118). Each answer is a
function of the command's operands, with the length check of R156 against Table 11-2 made first. -/

namespace Sys2Proof.Machine

/-- PING: its data come back; 239 data bytes or more are BAD_LENGTH (R159). -/
def pingAnswer (operands : List Byte) (s : State) : Answer :=
  if operands.length ≤ 238 then s.answer operands else s.refuse .badLength

/-- PING (R159). -/
def execPing (s : State) : Result := takeNamed .ping pingAnswer s

/-- The data of GET_INFO (R159, Table 11-4). -/
def infoData (s : State) : List Byte :=
  [Config.familyCode] ++ put16 Config.partCode ++ putCapacities ++ put8 s.lrx.rate.code ++ put8 s.cmi.resetCause.code

@[inherit_doc infoData]
def getInfoAnswer (operands : List Byte) (s : State) : Answer :=
  match operands with
  | [] => s.answer (infoData s)
  | _ :: _ => s.refuse .badLength

/-- GET_INFO (R159). -/
def execGetInfo (s : State) : Result := takeNamed .getInfo getInfoAnswer s

/-- The four link parameters are in their ranges (R160). -/
def LinkParams.valid (p : LinkParams) : Bool :=
  decide ((p.silence = 0 ∨ (20 ≤ p.silence ∧ p.silence ≤ 60000)) ∧ 2 ≤ p.ack ∧ p.ack ≤ 1000 ∧ p.retryLimit ≤ 15
    ∧ 1 ≤ p.window ∧ p.window ≤ 8)

/-- The link parameters as SET_LINK carries and answers them (Table 11-2, Table 11-4). -/
def putParams (p : LinkParams) : List Byte := put16 p.silence ++ put16 p.ack ++ put8 p.retryLimit ++ put8 p.window

/-- The link parameters replaced; the silence timer takes the new timeout at once (R160). -/
def State.setParams (s : State) (p : LinkParams) : State :=
  s.setCmi { s.cmi with params := p, silenceTimer := silenceEnd p s.tick }

/-- SET_LINK with its operands (R160). -/
def setLinkAnswer (operands : List Byte) (s : State) : Answer :=
  match operands with
  | [s0, s1, a0, a1, retry, window] =>
    let p : LinkParams :=
      { silence := le16 s0 s1, ack := le16 a0 a1, retryLimit := retry.toNat, window := window.toNat }
    if p.valid then (s.setParams p).answer (putParams s.cmi.params) else s.refuse .badArgument
  | _ => s.refuse .badLength

/-- SET_LINK (R160, R137). -/
def execSetLink (s : State) : Result := takeNamed .setLink setLinkAnswer s

/-- The data of GET_STATUS (R161, Table 11-4). -/
def statusData (s : State) : List Byte :=
  put8 s.rnc.state.code ++ put8 s.rnc.cause.code ++ [s.cmi.epoch] ++ putTick s.tick ++ put8 s.cpq.records.length
    ++ put8 s.rpq.records.length ++ put8 s.rpq.sentCount ++ put16 s.armedCount
    ++ [axisSet fun a => (s.axis a).phaseFlag || (s.axis a).limitFlag]

@[inherit_doc statusData]
def getStatusAnswer (operands : List Byte) (s : State) : Answer :=
  match operands with
  | [] => s.answer (statusData s)
  | _ :: _ => s.refuse .badLength

/-- GET_STATUS (R161). -/
def execGetStatus (s : State) : Result := takeWhole .getStatus getStatusAnswer s

/-- The data of GET_LINK_STATS (R162, Table 11-4). -/
def statsData (d : DiscardStats) : List Byte :=
  put16 d.gap ++ put16 d.length ++ put16 d.framing ++ put16 d.crc ++ put16 d.kind ++ put16 d.overrun
    ++ put8 (discardCode d.last)

/-- GET_LINK_STATS with its operands (R162, R146). -/
def getLinkStatsAnswer (operands : List Byte) (s : State) : Answer :=
  match operands with
  | [flag] =>
    match flagOf flag with
    | none => s.refuse .badArgument
    | some clear =>
      (if clear then s.setLrx { s.lrx with stats := .reset } else s).answer (statsData s.lrx.stats)
  | _ => s.refuse .badLength

/-- GET_LINK_STATS (R162). -/
def execGetLinkStats (s : State) : Result := takeNamed .getLinkStats getLinkStatsAnswer s

/-- MASK_REPORTS with its operands: a term outside the kind codes 1 to 9 is BAD_ARGUMENT (R123, R162, R165). -/
def maskReportsAnswer (operands : List Byte) (s : State) : Answer :=
  match operands with
  | [k0, k1] =>
    let kinds : BitVec 16 := k1 ++ k0
    if kinds &&& 0xFC01 = 0 then
      (s.setRpq { s.rpq with mask := maskOfSet kinds }).answer (putBits16 (maskSet s.rpq.mask))
    else s.refuse .badArgument
  | _ => s.refuse .badLength

/-- MASK_REPORTS (R123). -/
def execMaskReports (s : State) : Result := takeNamed .maskReports maskReportsAnswer s

/-- RESET_PART with its operands: a command reset becomes due (R163). -/
def resetPartAnswer (operands : List Byte) (s : State) : Answer :=
  match operands with
  | [] => (s.setCmi { s.cmi with resetDue := true }).answer []
  | _ :: _ => s.refuse .badLength

/-- RESET_PART (R163). -/
def execResetPart (s : State) : Result := takeNamed .resetPart resetPartAnswer s

/-- The entry into RUN and the number of marks its catch-up advanced (R118, R65). -/
def State.enterRun (s : State) : State × Nat :=
  ((s.setRnc { s.rnc with state := .run }).report (.runState .run .host s.tick)).catchUp

/-- RUN with its operands (R118). -/
def runAnswer (operands : List Byte) (s : State) : Answer :=
  match operands with
  | [] =>
    match s.rnc.state with
    | .run => s.answer (put8 (RunState.code .run) ++ put16 0)
    | .hold => s.enterRun.1.answer (put8 (RunState.code .hold) ++ put16 s.enterRun.2)
  | _ :: _ => s.refuse .badLength

/-- RUN (R118). -/
def execRun (s : State) : Result := takeWhole .run runAnswer s

/-- HOLD with its operands (R117). -/
def holdAnswer (operands : List Byte) (s : State) : Answer :=
  match operands with
  | [] =>
    match s.rnc.state with
    | .run => (s.enterHold .host).answer (put8 (RunState.code .run) ++ put8 (HoldCause.code .host))
    | .hold => s.answer (put8 (RunState.code .hold) ++ put8 s.rnc.cause.code)
  | _ :: _ => s.refuse .badLength

/-- HOLD (R117). -/
def execHold (s : State) : Result := takeWhole .hold holdAnswer s

end Sys2Proof.Machine
end

