-- ==== Sys2Proof/Machine/MarkCommands.lean ====
section
/-! DEFINITION. The mark commands (spec 02.4, 02.6 to 02.8): DEFINE_MARK, DELETE_MARK, ARM_MARKS, DISARM_MARKS, ARM_GROUP,
DISARM_GROUP, MOVE_MARK, READ_MARK, LIST_MARKS. -/

namespace Sys2Proof.Machine

/-- The state of a mark, UNUSED for one that is not defined, as a reply carries it (Table 11-12). -/
def State.markByte (s : State) (id : MarkId) : List Byte := put8 (markStateCode ((s.mark id).map (·.state)))

/-- The mark is defined and ARMED or REARMING (R38, R40). -/
def State.markActive (s : State) (id : MarkId) : Bool := (s.mark id).any (·.active)

/-- DEFINE_MARK of a valid record: refused with MARK_ACTIVE, or the whole record replaced (R38, R39). -/
def State.defineMark (s : State) (m : Mark) : Answer :=
  if s.markActive m.id then s.refuse .markActive else (s.putMark m).answer (s.markByte m.id)

/-- DEFINE_MARK with its operands; the action count fixes the length (R38, R39, R165, Table 11-2). -/
def defineMarkAnswer (operands : List Byte) (s : State) : Answer :=
  match operands with
  | id :: axis :: kind :: qual :: b0 :: b1 :: b2 :: b3 :: group :: report :: h0 :: h1 :: s0 :: s1 :: s2 :: s3 :: c0
      :: c1 :: count :: entries =>
    if entries.length ≠ 7 * count.toNat then s.refuse .badLength
    else
      let fields : MarkFields :=
        { axis, kind, qual, base := leInt b0 b1 b2 b3, group, report, band := le16 h0 h1, step := le32 s0 s1 s2 s3,
          count := le16 c0 c1, entryCount := count.toNat, entries }
      match fields.mark (markOf id) (fun a => (s.axis a).config) with
      | some m => s.defineMark m
      | none => s.refuse .badArgument
  | _ => s.refuse .badLength

/-- DEFINE_MARK (R38, R39). -/
def execDefineMark (s : State) : Result := takeWhole .defineMark defineMarkAnswer s

/-- DELETE_MARK with its operands (R40). -/
def deleteMarkAnswer (operands : List Byte) (s : State) : Answer :=
  match operands with
  | [id] =>
    match s.mark (markOf id) with
    | none => s.refuse .markUnused
    | some m =>
      if m.active then s.refuse .markActive
      else (s.setMarks (eraseRecord s.mks.marks (markOf id))).answer (put8 m.state.code)
  | _ => s.refuse .badLength

/-- DELETE_MARK (R40). -/
def execDeleteMark (s : State) : Result := takeWhole .deleteMark deleteMarkAnswer s

/-- A per-mark procedure applied to each id in list order, with one reply entry per id: the state just before, and the result
(R41, R42). -/
def State.eachMark (op : State → MarkId → State × MarkResult) (s : State) : List MarkId → State × List Byte
  | [] => (s, [])
  | id :: rest =>
    let done := op s id
    let after := State.eachMark op done.1 rest
    (after.1, s.markByte id ++ put8 done.2.code ++ after.2)

/-- A list of marks with the checks of ARM_MARKS and DISARM_MARKS: the count fixes the length and is 1 to 32 (R41, R42, R165). -/
def markListAnswer (op : State → MarkId → State × MarkResult) (operands : List Byte) (s : State) : Answer :=
  match operands with
  | count :: ids =>
    if ids.length ≠ count.toNat then s.refuse .badLength
    else if 1 ≤ count.toNat ∧ count.toNat ≤ 32 then
      let done := s.eachMark op (ids.map markOf)
      done.1.answer (count :: done.2)
    else s.refuse .badArgument
  | [] => s.refuse .badLength

/-- ARM_MARKS with its operands (R41). -/
def armMarksAnswer (operands : List Byte) (s : State) : Answer := markListAnswer State.armMark operands s

/-- ARM_MARKS (R41). -/
def execArmMarks (s : State) : Result := takeWhole .armMarks armMarksAnswer s

/-- DISARM_MARKS with its operands (R42). -/
def disarmMarksAnswer (operands : List Byte) (s : State) : Answer := markListAnswer State.disarmMark operands s

/-- DISARM_MARKS (R42). -/
def execDisarmMarks (s : State) : Result := takeWhole .disarmMarks disarmMarksAnswer s

/-- How many of the results are `r`. -/
def countResult (r : MarkResult) (results : List MarkResult) : Nat := (results.filter fun x => decide (x = r)).length

/-- ARM_GROUP with its operands (R43). -/
def armGroupAnswer (operands : List Byte) (s : State) : Answer :=
  match operands with
  | [group] =>
    match groupOf group with
    | none => s.refuse .badArgument
    | some g =>
      (s.armMembers g).1.answer
        (put16 (countResult .ok (s.armMembers g).2) ++ put16 (countResult .outOfRange (s.armMembers g).2))
  | _ => s.refuse .badLength

/-- ARM_GROUP (R43). -/
def execArmGroup (s : State) : Result := takeWhole .armGroup armGroupAnswer s

/-- DISARM_GROUP with its operands (R44). -/
def disarmGroupAnswer (operands : List Byte) (s : State) : Answer :=
  match operands with
  | [group] =>
    match groupOf group with
    | none => s.refuse .badArgument
    | some g => (s.disarmMembers g).1.answer (put16 (countResult .ok (s.disarmMembers g).2))
  | _ => s.refuse .badLength

/-- DISARM_GROUP (R44). -/
def execDisarmGroup (s : State) : Result := takeWhole .disarmGroup disarmGroupAnswer s

/-- The new target of a move on an axis configured `c`, or none where R45 refuses it (checks 4 and 5). -/
def movedTarget (c : AxisConfig) (relative : Bool) (target value : Int) : Option Int :=
  match c.kind, relative with
  | .rotary, false => if c.inRange value then some value else none
  | .rotary, true => some ((target + value) % c.modulus)
  | .linear, false => some value
  | .linear, true => if inLinear (target + value) then some (target + value) else none

/-- A mark moved to a new target (R46): its base target moves with it unless it is a PITCH mark. -/
def Mark.retarget (m : Mark) (target : Int) : Mark :=
  match m.kind with
  | .once | .repeating _ => { m with target := target, base := target }
  | .pitch _ _ _ => { m with target := target }

/-- A move of mark `m` by MOVE_MARK on axis unit `u` (R45, R46): the moved mark, band-checked when REARMING. -/
def Mark.move (m : Mark) (u : AxisUnit) (relative : Bool) (value : Int) : Option Mark :=
  (movedTarget u.config relative m.target value).map fun target => (m.retarget target).bandCheck u.config u.pos

/-- MOVE_MARK with its operands (R45, R46). -/
def moveMarkAnswer (operands : List Byte) (s : State) : Answer :=
  match operands with
  | [id, form, v0, v1, v2, v3] =>
    match moveFormOf form, s.mark (markOf id) with
    | none, _ => s.refuse .badArgument
    | some _, none => s.refuse .markUnused
    | some relative, some m =>
      if m.state = .spent then s.refuse .markSpent
      else
        match m.move (s.axis m.axis) relative (leInt v0 v1 v2 v3) with
        | none => s.refuse .badArgument
        | some moved => (s.putMark moved).answer (putPos m.target ++ putPos moved.target ++ put8 moved.state.code)
  | _ => s.refuse .badLength

/-- MOVE_MARK (R45, R46). -/
def execMoveMark (s : State) : Result := takeWhole .moveMark moveMarkAnswer s

/-- READ_MARK with its operands (R48, Table 11-6). -/
def readMarkAnswer (operands : List Byte) (s : State) : Answer :=
  match operands with
  | [id] => s.answer (putMark (markOf id) (s.mark (markOf id)))
  | _ => s.refuse .badLength

/-- READ_MARK (R48). -/
def execReadMark (s : State) : Result := takeWhole .readMark readMarkAnswer s

/-- The entries of a LIST_MARKS reply from a start index on (R32). -/
def listedMarks (marks : List Mark) (start : Nat) : List Mark := (marks.drop start).take Config.listEntries

/-- LIST_MARKS with its operands (R32, Table 11-4). -/
def listMarksAnswer (operands : List Byte) (s : State) : Answer :=
  match operands with
  | [axis, start] =>
    match axisOf axis with
    | none => s.refuse .badArgument
    | some a =>
      let shown := listedMarks (s.axisMarks a) start.toNat
      s.answer
        (axis :: put16 (s.axisMarks a).length ++ [start] ++ put8 shown.length
          ++ shown.flatMap fun m => put8 m.id.val ++ putPos m.target ++ put8 m.state.code)
  | _ => s.refuse .badLength

/-- LIST_MARKS (R32). -/
def execListMarks (s : State) : Result := takeWhole .listMarks listMarksAnswer s

end Sys2Proof.Machine
end

