-- ==== Sys2Proof/Machine/StrobeCommands.lean ====
section
/-! DEFINITION. The strobe and capture commands (spec 06.4, 06.5): CONFIG_STROBE, READ_STROBES, CAPTURE_NOW, READ_CAPTURES,
FLUSH_CAPTURES. -/

namespace Sys2Proof.Machine

/-- A strobe configuration as CONFIG_STROBE and READ_STROBES answer it (Table 11-4). -/
def putStrobeConfig (c : StrobeConfig) : List Byte :=
  put8 c.edges.code ++ put16 c.qual ++ [c.mask] ++ put8 (armGroupCode c.armGroup)

/-- CONFIG_STROBE accepted: the pending record is dropped, level and glitch count are kept (R105). -/
def Strobe.configure (b : Strobe) (c : StrobeConfig) : Strobe := { b with config := c, record := none }

/-- CONFIG_STROBE with its operands (R105). -/
def configStrobeAnswer (operands : List Byte) (s : State) : Answer :=
  match operands with
  | [strobe, edges, q0, q1, mask, group] =>
    match strobeOf strobe, EdgeSelect.ofByte edges, armGroupOf group with
    | some n, some e, some g =>
      if le16 q0 q1 ≤ 1000 then
        (s.setStrobe n
          ((s.strobe n).configure { edges := e, qual := le16 q0 q1, mask := mask, armGroup := g })).answer
          (putStrobeConfig (s.strobe n).config ++ putFlag (s.strobe n).record.isSome)
      else s.refuse .badArgument
    | _, _, _ => s.refuse .badArgument
  | _ => s.refuse .badLength

/-- CONFIG_STROBE (R105). -/
def execConfigStrobe (s : State) : Result := takeNamed .configStrobe configStrobeAnswer s

/-- One strobe of a READ_STROBES reply (R106, Table 11-4). -/
def putStrobe (b : Strobe) : List Byte :=
  putStrobeConfig b.config ++ put8 (Level.code b.level) ++ putFlag b.record.isSome ++ put16 b.glitches

/-- A strobe with its glitch count cleared (R106). -/
def Strobe.clearCount (b : Strobe) : Strobe := { b with glitches := 0 }

/-- READ_STROBES with its operands (R106). -/
def readStrobesAnswer (operands : List Byte) (s : State) : Answer :=
  match operands with
  | [flag] =>
    match flagOf flag with
    | none => s.refuse .badArgument
    | some clear =>
      (if clear then s.setStrobes (mapUnits Strobe.clearCount s.strobes) else s).answer
        (allStrobes.flatMap fun n => putStrobe (s.strobe n))
  | _ => s.refuse .badLength

/-- READ_STROBES (R106). -/
def execReadStrobes (s : State) : Result := takeNamed .readStrobes readStrobesAnswer s

/-- The HOST record of CAPTURE_NOW with mask `mask` (R111). -/
def State.hostCapture (s : State) (mask : BitVec 8) : Capture :=
  { source := .host, gap := false, tick := s.tick, mask := mask, positions := s.positions mask }

/-- CAPTURE_NOW with its operands (R111). -/
def captureNowAnswer (operands : List Byte) (s : State) : Answer :=
  match operands with
  | [mask] =>
    if s.cpq.room then
      (s.storeCapture (s.hostCapture mask)).answer (putTick s.tick ++ put8 (s.cpq.records.length + 1))
    else s.refuse .full
  | _ => s.refuse .badLength

/-- CAPTURE_NOW (R111). -/
def execCaptureNow (s : State) : Result := takeNamed .captureNow captureNowAnswer s

/-- The records READ_CAPTURES takes from the head: at most `n` of them, in at most `room` bytes (R112). -/
def takenCaptures : Nat → Nat → List Capture → List Capture
  | 0, _, _ => []
  | _ + 1, _, [] => []
  | n + 1, room, c :: rest => if c.size ≤ room then c :: takenCaptures n (room - c.size) rest else []

/-- The queue after `k` records are removed from its head by READ_CAPTURES (R110, R112). -/
def CaptureQueue.removed (q : CaptureQueue) (k : Nat) : CaptureQueue :=
  { q with
    records := q.records.drop k
    overrun := false
    waitingNotice := q.waitingNotice && !(q.records.drop k).isEmpty }

/-- READ_CAPTURES with its operands (R112). -/
def readCapturesAnswer (operands : List Byte) (s : State) : Answer :=
  match operands with
  | [count] =>
    if 1 ≤ count.toNat ∧ count.toNat ≤ 32 then
      let taken := takenCaptures count.toNat Config.captureRoom s.cpq.records
      let after := s.cpq.removed taken.length
      (s.setCpq after).answer
        (put8 taken.length ++ put8 after.records.length ++ putFlag s.cpq.overrun ++ taken.flatMap putCapture)
    else s.refuse .badArgument
  | _ => s.refuse .badLength

/-- READ_CAPTURES (R112). -/
def execReadCaptures (s : State) : Result := takeNamed .readCaptures readCapturesAnswer s

/-- The queue after FLUSH_CAPTURES: the gap-pending flag is kept (R113). -/
def CaptureQueue.flushed (q : CaptureQueue) : CaptureQueue :=
  { q with records := [], overrun := false, waitingNotice := false }

/-- FLUSH_CAPTURES with its operands (R113). -/
def flushCapturesAnswer (operands : List Byte) (s : State) : Answer :=
  match operands with
  | [] => (s.setCpq s.cpq.flushed).answer (put8 s.cpq.records.length)
  | _ :: _ => s.refuse .badLength

/-- FLUSH_CAPTURES (R113). -/
def execFlushCaptures (s : State) : Result := takeNamed .flushCaptures flushCapturesAnswer s

end Sys2Proof.Machine
end

