-- ==== Sys2Proof/Machine/Dispatch.lean ====
section
/-! DEFINITION. One arm per row of spec/opcode_table.json. -/

namespace Sys2Proof.Machine

/-- The effect of one event on everything but the queue. -/
def exec (i : Instr) (s : State) : Host.Outcome State Fault Refusal :=
  match i with
  | .hardReset pins => Sys2Proof.Machine.execHardReset pins s
  | .filteredSample axis a b z => Sys2Proof.Machine.execFilteredSample axis a b z s
  | .timeCountExpiry axis => Sys2Proof.Machine.execTimeCountExpiry axis s
  | .stepArrival axis => Sys2Proof.Machine.execStepArrival axis s
  | .jumpArrival axis => Sys2Proof.Machine.execJumpArrival axis s
  | .strobeEdge strobe => Sys2Proof.Machine.execStrobeEdge strobe s
  | .strobeQualificationExpiry strobe => Sys2Proof.Machine.execStrobeQualificationExpiry strobe s
  | .strobeGroupArm => Sys2Proof.Machine.execStrobeGroupArm s
  | .pulseEnd line => Sys2Proof.Machine.execPulseEnd line s
  | .ackTimerExpiry => Sys2Proof.Machine.execAckTimerExpiry s
  | .ackTimeoutSignal => Sys2Proof.Machine.execAckTimeoutSignal s
  | .silenceTimerExpiry => Sys2Proof.Machine.execSilenceTimerExpiry s
  | .helloBeaconExpiry => Sys2Proof.Machine.execHelloBeaconExpiry s
  | .characterReceived value mark => Sys2Proof.Machine.execCharacterReceived value mark s
  | .gapTimerExpiry => Sys2Proof.Machine.execGapTimerExpiry s
  | .txTakeFrame => Sys2Proof.Machine.execTxTakeFrame s
  | .txFrameDone pins => Sys2Proof.Machine.execTxFrameDone pins s
  | .sync => Sys2Proof.Machine.execSync s
  | .unknownCommand => Sys2Proof.Machine.execUnknownCommand s
  | .ping => Sys2Proof.Machine.execPing s
  | .getInfo => Sys2Proof.Machine.execGetInfo s
  | .setLink => Sys2Proof.Machine.execSetLink s
  | .getStatus => Sys2Proof.Machine.execGetStatus s
  | .getLinkStats => Sys2Proof.Machine.execGetLinkStats s
  | .maskReports => Sys2Proof.Machine.execMaskReports s
  | .resetPart => Sys2Proof.Machine.execResetPart s
  | .run => Sys2Proof.Machine.execRun s
  | .hold => Sys2Proof.Machine.execHold s
  | .configAxis => Sys2Proof.Machine.execConfigAxis s
  | .presetAxis => Sys2Proof.Machine.execPresetAxis s
  | .readAxes => Sys2Proof.Machine.execReadAxes s
  | .clearAxisFault => Sys2Proof.Machine.execClearAxisFault s
  | .homeAxis => Sys2Proof.Machine.execHomeAxis s
  | .defineMark => Sys2Proof.Machine.execDefineMark s
  | .deleteMark => Sys2Proof.Machine.execDeleteMark s
  | .armMarks => Sys2Proof.Machine.execArmMarks s
  | .disarmMarks => Sys2Proof.Machine.execDisarmMarks s
  | .armGroup => Sys2Proof.Machine.execArmGroup s
  | .disarmGroup => Sys2Proof.Machine.execDisarmGroup s
  | .moveMark => Sys2Proof.Machine.execMoveMark s
  | .readMark => Sys2Proof.Machine.execReadMark s
  | .listMarks => Sys2Proof.Machine.execListMarks s
  | .configLine => Sys2Proof.Machine.execConfigLine s
  | .driveLine => Sys2Proof.Machine.execDriveLine s
  | .readLines => Sys2Proof.Machine.execReadLines s
  | .configStrobe => Sys2Proof.Machine.execConfigStrobe s
  | .readStrobes => Sys2Proof.Machine.execReadStrobes s
  | .captureNow => Sys2Proof.Machine.execCaptureNow s
  | .readCaptures => Sys2Proof.Machine.execReadCaptures s
  | .flushCaptures => Sys2Proof.Machine.execFlushCaptures s
  | .pinSample axis a b z => Sys2Proof.Machine.execPinSample axis a b z s
  | .startBitConfirmed => Sys2Proof.Machine.execStartBitConfirmed s
  | .rxdReturnsHigh => Sys2Proof.Machine.execRxdReturnsHigh s

end Sys2Proof.Machine
end

