-- ==== Sys2Proof/Machine/Schedule.lean ====
section
/-! DEFINITION. What the block does when no event waits in its queue (DESIGN CHOICE, unsafe; log entry 2): it schedules its own
due and ready events, and when there is none its clock moves one tick (R1). -/

namespace Sys2Proof.Machine

/-- The set of the eight inputs that are HIGH. -/
def inputSet (level : Fin 8 → Level) : BitVec 8 := axisSet fun n => decide (level n = .high)

/-- The pins and straps as the part last saw them: what a command reset that the block schedules itself reads (log entry
6). -/
def State.heldPins (s : State) : ResetPins where
  rate1 := match s.lrx.rate with
    | .bps115200 | .bps1000000 => .low
    | .bps3000000 | .bps6000000 => .high
  rate0 := match s.lrx.rate with
    | .bps115200 | .bps3000000 => .low
    | .bps1000000 | .bps6000000 => .high
  encA := inputSet fun n => (s.axis n).a.pin
  encB := inputSet fun n => (s.axis n).b.pin
  encZ := inputSet fun n => (s.axis n).z.pin
  stb := inputSet fun n => (s.strobe n).level

/-! ### Due events -/

/-- The pulse ends that fall due at the present tick (R91). -/
def State.duePulses (s : State) : List Instr :=
  (allLines.filter fun n => due ((s.line n).pulse.map (·.endTick)) s.tick).map fun n => .pulseEnd n.val

/-- The time counts that fall due (R10). -/
def State.dueCounts (s : State) : List Instr :=
  (allAxes.filter fun a => due (s.axis a).timeEnd s.tick).map fun a => .timeCountExpiry a.val

/-- The qualifications that fall due (R102). -/
def State.dueStrobes (s : State) : List Instr :=
  (allStrobes.filter fun n => due ((s.strobe n).record.map (·.endTick)) s.tick).map fun n =>
    .strobeQualificationExpiry n.val

/-- One event, when a condition holds. -/
def eventIf (c : Bool) (i : Instr) : List Instr := if c then [i] else []

/-- Every event whose time has come at the present tick. -/
def State.dueEvents (s : State) : List Instr :=
  s.duePulses ++ s.dueCounts ++ s.dueStrobes
    ++ eventIf (due s.rpq.ackTimer s.tick) .ackTimerExpiry
    ++ eventIf (due s.cmi.silenceTimer s.tick && decide (s.cmi.session = .opened)) .silenceTimerExpiry
    ++ eventIf (due s.cmi.beaconTimer s.tick && decide (s.cmi.session ≠ .opened)) .helloBeaconExpiry
    ++ eventIf s.gapDue .gapTimerExpiry
    ++ eventIf s.frameDue (.txFrameDone s.heldPins)

/-! ### Ready events -/

/-- The commands that are taken before or after a whole arrival (R49, R50, R65): the mark commands, CONFIG_AXIS, RUN and HOLD, and
GET_STATUS, whose reply reads the mark table (log entry 26). -/
def takesWhole : Instr → Bool
  | .getStatus | .run | .hold | .configAxis | .defineMark | .deleteMark | .armMarks | .disarmMarks | .armGroup | .disarmGroup
  | .moveMark | .readMark | .listMarks => true
  | _ => false

/-- The arrival in progress waits for the next tick: the list of pauses begins with a pause of no stage, which stands for one tick between two
stages (R71; log entry 3). -/
def State.waits (s : State) : Bool := s.mks.arrival.isSome && decide (s.pauses.head? = some (some 0))

/-- The arrival in progress goes on, unless it waits for the next tick. -/
def State.resumeEvent (s : State) : List Instr :=
  match s.mks.arrival with
  | some r => eventIf (!s.waits) (.stepArrival r.axis.val)
  | none => []

/-- The event of the arrival at the head of an axis's order (R49). -/
def State.arrivalEvent (s : State) (a : Axis) : List Instr :=
  match (s.axis a).arrivals with
  | [] => []
  | .step _ _ _ :: _ => [.stepArrival a.val]
  | .jump _ _ :: _ => [.jumpArrival a.val]

/-- The event of the entry at the head of the inbound queue, the reply slot being EMPTY (R154). -/
def State.inboundEvent (s : State) : List Instr :=
  match s.lrx.inbound, s.ltx.slot with
  | e :: _, none => [e.row]
  | _, _ => []

/-- The events that are taken before or after a whole arrival: the arrivals, a strobe group arm, an ACK_TIMEOUT signal and such a command (R49,
R50, R104). -/
def State.wholeEvents (s : State) : List Instr :=
  allAxes.flatMap s.arrivalEvent
    ++ eventIf (!s.mks.groupArms.isEmpty) .strobeGroupArm
    ++ eventIf (decide (s.rpq.signals ≠ 0)) .ackTimeoutSignal
    ++ s.inboundEvent.filter takesWhole

/-- The next event of the Mark Scheduler: while an arrival is in progress its own, and the others wait for its end; else the first of the
others (R49). -/
def State.schedulerEvent (s : State) : List Instr :=
  match s.mks.arrival with
  | some _ => s.resumeEvent
  | none => s.wholeEvents.take 1

/-- The transmitter is IDLE and a frame is present for it (R147). -/
def State.frameReady (s : State) : Bool :=
  decide (s.ltx.sending = none) && (s.ltx.slot.isSome || s.ltx.helloPending || s.offered.isSome)

/-- Every event that only waits to be taken. -/
def State.readyEvents (s : State) : List Instr :=
  s.schedulerEvent
    ++ s.inboundEvent.filter (fun i => !takesWhole i)
    ++ eventIf s.frameReady .txTakeFrame

/-! ### The clock -/

/-- The number of bytes of the frame on the line already sent at tick `t` (R147; log entry 18). -/
def Sending.progress (x : Sending) (rate : LinkRate) (t : Tick) : Sending :=
  { x with
    sent := min x.frame.bytes.length
      (elapsed t x.started * rate.bitsPerSecond / (Config.characterBits * Config.ticksPerSecond)) }

/-- The tick counter advances by one, and 2^48 - 1 is followed by 0 (R1). No pin is sampled by it: a filter run count that is part-way stands until the
next sample event, where R5 takes two samples a tick (DESIGN CHOICE, unsafe; log entry 15). -/
def State.nextTick (s : State) : State :=
  (s.setTick (s.tick + 1)).setLtx
    { s.ltx with sending := s.ltx.sending.map fun x => x.progress s.lrx.rate (s.tick + 1) }

/-- A tick that an arrival in progress waits for uses up its pause (log entry 3). -/
def State.endWait (s : State) : State := if s.waits then s.setPauses s.pauses.tail else s

/-- A step arrival is about to begin with no pause listed: where it pauses is free (R71; log entry 3). -/
def State.drawPauses (s : State) : State :=
  match s.mks.arrival, s.pauses, s.schedulerEvent with
  | none, [], [.stepArrival _] => (s.setPauses (Config.arrivalPauses s.freeIndex)).setFreeIndex (s.freeIndex + 1)
  | _, _, _ => s

/-- The step of an empty queue. -/
def State.idle (s : State) : State :=
  match s.dueEvents ++ s.readyEvents with
  | [] => s.endWait.nextTick
  | events => s.drawPauses.setPending events

end Sys2Proof.Machine
end

