-- ==== Sys2Proof/Machine/Step.lean ====
section
/-! DEFINITION. The step: the event at the front of the queue is taken; on an empty queue the block idles. -/

namespace Sys2Proof.Machine

/-- The event at the front of the queue is taken, on the state with the queue's rest; with an empty queue the block schedules
its own events or its clock moves one tick (log entry 2). -/
def step (s : State) : Host.Outcome State Fault Refusal :=
  match s.pending with
  | i :: rest => exec i (s.setPending rest)
  | [] => .next s.idle

/-- The command a table word spells, put at the front of the queue; no word spells one (Sys2Proof/Decode.lean). -/
def State.withFetchWord (s : State) (nbits w : Nat) : State :=
  match decodeTableWord nbits w with
  | some i => s.setPending (i :: s.pending)
  | none => s

end Sys2Proof.Machine
end

