-- ==== Sys2Proof/WellFormed.lean ====
section
/-! DEFINITION. Which events are well formed: an event names an axis, strobe or line that the part has (Table 0-4). -/

namespace Sys2Proof

/-- The unit an event names exists: axes 0 to 7, strobes 0 to 7, lines 0 to 15 (Table 0-4). Every other row has no
operand that could be out of range. -/
def Instr.wellFormed : Instr → Bool
  | .filteredSample axis _ _ _ => decide (axis < 8)
  | .pinSample axis _ _ _ => decide (axis < 8)
  | .timeCountExpiry axis => decide (axis < 8)
  | .stepArrival axis => decide (axis < 8)
  | .jumpArrival axis => decide (axis < 8)
  | .strobeEdge strobe => decide (strobe < 8)
  | .strobeQualificationExpiry strobe => decide (strobe < 8)
  | .pulseEnd line => decide (line < 16)
  | .hardReset _ | .strobeGroupArm | .ackTimerExpiry | .ackTimeoutSignal | .silenceTimerExpiry
  | .helloBeaconExpiry | .characterReceived _ _ | .gapTimerExpiry | .txTakeFrame | .txFrameDone _
  | .sync | .unknownCommand | .ping | .getInfo | .setLink | .getStatus | .getLinkStats | .maskReports
  | .resetPart | .run | .hold | .configAxis | .presetAxis | .readAxes | .clearAxisFault | .homeAxis
  | .defineMark | .deleteMark | .armMarks | .disarmMarks | .armGroup | .disarmGroup | .moveMark
  | .readMark | .listMarks | .configLine | .driveLine | .readLines | .configStrobe | .readStrobes
  | .captureNow | .readCaptures | .flushCaptures | .startBitConfirmed | .rxdReturnsHigh => true

end Sys2Proof
end

