-- ==== Sys2Proof/Safety.lean ====
section
/-! DEFINITION. The terms claims use: a COMMAND ready at the head of the queue, the state it is executed on and what answering it
leaves, characters delivered one after another, and the invariants of the part. -/

namespace Sys2Proof.Machine

/-! ### Commands -/

/-- The COMMAND `e` stands at the head of the inbound queue, `rest` behind it, and the reply slot is EMPTY: the Command
Interpreter takes it (R154). -/
abbrev State.commandReady (s : State) (e : Entry) (rest : List Entry) : Prop :=
  s.lrx.inbound = e :: rest ∧ e.kind = .command ∧ s.ltx.slot = none

/-- The reply cache holds no entry with the sequence number of `e` (R156). -/
abbrev State.notCached (s : State) (e : Entry) : Prop := (s.cmi.cache.all fun r => decide (r.seq ≠ e.seq)) = true

/-- The COMMAND `e` is ready and will be executed: the session is OPEN and the cache does not answer it (R156). -/
abbrev State.executes (s : State) (e : Entry) (rest : List Entry) : Prop :=
  s.commandReady e rest ∧ s.cmi.session = .opened ∧ s.notCached e

/-- The inbound queue replaced by `rest` (R154). -/
def State.withInbound (s : State) (rest : List Entry) : State := { s with lrx := { s.lrx with inbound := rest } }

/-- The COMMAND `e` is ready and is executed on the state `u`: the state without the entry, and, for a command taken before or after a
whole arrival, with the arrival in progress taken to its end. With no arrival in progress the two are the same state. -/
abbrev State.executesOn (s : State) (e : Entry) (rest : List Entry) (u : State) : Prop :=
  s.executes e rest ∧ u = (if takesWhole e.row then (s.withInbound rest).settled else s.withInbound rest)

/-- The REPLY to `e` stands in the reply slot (R154, 11.3). -/
def State.placed (s : State) (e : Entry) (st : Status) (data : List Byte) : State :=
  { s with ltx := { s.ltx with slot := some { seq := e.seq, payload := replyPayload e.payload st data } } }

/-- The REPLY to `e` stands in the reply slot and in the reply cache (R156). -/
def State.answered (s : State) (e : Entry) (st : Status) (data : List Byte) : State :=
  { s.placed e st data with
    cmi := { s.cmi with cache := some { seq := e.seq, payload := replyPayload e.payload st data } } }

/-- Events taken one after another. -/
def takeEach : List Instr → State → Result
  | [], s => .next s
  | i :: rest, s =>
    match exec i s with
    | .next t => takeEach rest t
    | .fault f => .fault f
    | .refused r => .refused r

/-- The events of one character without a framing error; the flag says whether its start bit is confirmed as an event of its own (R139; log entry
11). -/
def characterEvents : Byte × Bool → List Instr
  | (b, true) => [.startBitConfirmed, .characterReceived b false]
  | (b, false) => [.characterReceived b false]

/-- Characters without a framing error, delivered one after another. -/
def deliver (chars : List (Byte × Bool)) (s : State) : Result := takeEach (chars.flatMap characterEvents) s

/-! ### Positions -/

/-- One count up or down. -/
def Direction.delta : Direction → Int
  | .up => 1
  | .down => -1

/-- A count in direction `d` takes an axis configured `c` from position `p` to `q` (R14): on a LINEAR axis within the range, on
a ROTARY axis modulo M. -/
abbrev AxisConfig.moves (c : AxisConfig) (p : Int) (d : Direction) (q : Int) : Prop :=
  (c.kind = .linear ∧ q = p + Direction.delta d ∧ -2147483648 ≤ q ∧ q ≤ 2147483647) ∨
    (c.kind = .rotary ∧ 0 ≤ p ∧ p < c.modulus ∧ q = (p + Direction.delta d) % c.modulus)

/-- A count in direction `d` at position `p` would leave the LINEAR range (R15). -/
abbrev AxisConfig.atLimit (c : AxisConfig) (p : Int) (d : Direction) : Prop :=
  c.kind = .linear ∧ ((d = .up ∧ p = 2147483647) ∨ (d = .down ∧ p = -2147483648))

/-- No axis counts the wraps of axis `a`. -/
abbrev State.noFollower (s : State) (a : Axis) : Prop := ∀ b : Axis, s.countsWrapsOf a b = false

/-- The source that an axis in mode REVS counts from; none for an axis in any other mode (R4 check 6). -/
def State.sourceOf (s : State) (b : Axis) : Option Axis :=
  match (s.axis b).config.mode with
  | .revs => some (s.axis b).config.source
  | .off | .quadX1 | .quadX2 | .quadX4 | .stepDir | .upDown | .timebase => none

/-- The chain of sources that begins at axis `b` meets axis `a`, `b` itself included (R4 check 6). -/
def State.sourceChainMeets (s : State) (b a : Axis) : Prop :=
  ∃ k : Nat, (fun x : Option Axis => x.bind s.sourceOf)^[k] (some b) = some a

/-! ### Invariants -/

/-- A unit's position lies in its range, and so does the value its index presets (R14; R4 checks 2 to 4). -/
abbrev AxisUnit.lawful (u : AxisUnit) : Prop :=
  u.config.inRange u.pos = true ∧ (u.config.kind = .rotary → 2 ≤ u.config.modulus)
    ∧ (u.config.indexMode.presets = true → u.config.inRange u.config.indexPreset = true)

/-- Every axis is lawful. -/
abbrev State.axesLawful (s : State) : Prop := ∀ a : Axis, (s.axis a).lawful

/-- The target and state a mark's kind allows: the current target of a ONCE or REPEAT mark is its base target (R28); only a
REPEAT mark is REARMING (R29), and its band is at least 1 (Table 2-1). -/
def Mark.kindLawful (m : Mark) : Bool :=
  match m.kind with
  | .once => decide (m.target = m.base ∧ m.state ≠ .rearming)
  | .repeating h => decide (m.target = m.base ∧ 1 ≤ h)
  | .pitch _ _ _ => decide (m.state ≠ .rearming)

/-- A mark against the configuration of its axis: an ARMED or REARMING mark on a ROTARY axis has a current target in 0 to M-1
(R33); its target and state fit its kind; it has at most four actions (Table 2-1). -/
abbrev Mark.lawful (m : Mark) (c : AxisConfig) : Prop :=
  (m.active = true → c.kind = .rotary → 0 ≤ m.target ∧ m.target < c.modulus) ∧ m.kindLawful = true
    ∧ m.actions.length ≤ 4

/-- The mark table lists each defined mark once, in ascending id order, and every mark is lawful. -/
abbrev State.marksLawful (s : State) : Prop :=
  (s.mks.marks.map (·.id)).Pairwise (· < ·) ∧ ∀ m ∈ s.mks.marks, m.lawful (s.axis m.axis).config

/-- No arrival is in progress and no action list is running (R49, R70). -/
abbrev State.quiet (s : State) : Prop := s.mks.arrival = none ∧ s.acu = none

/-- The next STEP_ARRIVAL event takes its arrival to its end (log entry 3). -/
abbrev State.unpaused (s : State) : Prop := s.pauses.head?.join = none

/-- The conditions of R52 on a mark for an arrival of axis `a`. -/
def Arrival.selects (x : Arrival) (a : Axis) (m : Mark) : Bool :=
  match x with
  | .step p d _ => decide (m.axis = a ∧ m.state = .armed ∧ m.target = p) && m.qual.accepts d
  | .jump _ _ => false

/-- An arrival of the kind STEP (R49). -/
def Arrival.isStep : Arrival → Bool
  | .step _ _ _ => true
  | .jump _ _ => false

/-- The law of the arrival being taken (R49 to R53, R58, R60, R64, R70). The Action Unit is IDLE while there is none. It is a step arrival, and the
run state it read still holds; in HOLD it fires nothing. A running list is that of the mark now firing and has an entry left. The mark now firing
and the marks whose turn has not begun stand in ascending id order, and each of them that has not been disarmed since still meets the conditions it was
selected by. -/
abbrev State.arrivalLawful (s : State) : Prop :=
  (s.mks.arrival = none → s.acu = none) ∧
  ∀ r ∈ s.mks.arrival,
    r.arrival.isStep = true ∧ r.run = s.rnc.state ∧ (r.run = .hold → r.fireList = [] ∧ r.firing = none)
      ∧ (∀ c ∈ s.acu, r.firing = some c.mark ∧ c.index < c.list.length ∧ c.list.length ≤ 4)
      ∧ (r.firing.toList ++ r.fireList).Pairwise (· < ·)
      ∧ ∀ id ∈ r.firing.toList ++ r.fireList, id ∉ r.disarmed → (s.mark id).any (r.arrival.selects r.axis) = true

/-- In HOLD every MARK-owned line is at its safe level with no pulse in flight (R92). -/
abbrev State.holdSafe (s : State) : Prop :=
  s.rnc.state = .hold → ∀ n : LineNo,
    (s.line n).owner = .mark → (s.line n).level = (s.line n).safe ∧ (s.line n).pulse = none

/-- An OVERFLOW record that is UNSENT (R125 case 1). -/
def ReportRecord.freshOverflow (r : ReportRecord) : Bool :=
  match r.body, r.send with
  | .overflow _ _ _, .unsent => true
  | _, _ => false

/-- The law of the Report Queue (R125, R127, R132): at most 64 records, and with 64 the newest is an unsent OVERFLOW; at most 8
sent records, the oldest of the queue, their numbers consecutive up to the next sequence number; while the acknowledgement timer
runs some record is sent. -/
abbrev ReportQueue.lawful (q : ReportQueue) : Prop :=
  q.records.length ≤ 64 ∧ (q.records.length = 64 → (q.records.getLast?.any (·.freshOverflow)) = true)
    ∧ q.sentCount ≤ 8
    ∧ q.records.map (·.send.number)
      = (List.range q.sentCount).map (fun i => some (q.nextSeq - BitVec.ofNat 8 q.sentCount + BitVec.ofNat 8 i))
        ++ List.replicate (q.records.length - q.sentCount) none
    ∧ (q.ackTimer.isSome = true → 0 < q.sentCount)

/-- The Report Queue is lawful and the link parameters are in their ranges (R160). -/
abbrev State.reportsLawful (s : State) : Prop := s.rpq.lawful ∧ s.cmi.params.valid = true

/-- One position per axis of a mask (Table 6-2). -/
abbrev matchesMask (mask : BitVec 8) (positions : List Int) : Prop := positions.length = (maskAxes mask).length

/-- The law of the Capture Queue and the pending strobe records (R107, R108, R110, R101): at most 128 records; the waiting-notice
flag is set exactly while the queue holds a record; every record has one position per axis of its mask. -/
abbrev State.capturesLawful (s : State) : Prop :=
  s.cpq.records.length ≤ 128 ∧ (s.cpq.waitingNotice = true ↔ s.cpq.records ≠ [])
    ∧ (∀ c ∈ s.cpq.records, matchesMask c.mask c.positions)
    ∧ ∀ n : StrobeNo, ∀ r ∈ (s.strobe n).record, matchesMask (s.strobe n).config.mask r.positions

/-- The law of the session (R150, R153, R157, R129, R163, R148): epoch 0 exactly in NO_SESSION; the beacon timer runs exactly outside
OPEN; the silence and acknowledgement timers run only in OPEN; a REPLY on the line stands in the full slot, and a command reset is due only
behind a full slot. -/
abbrev State.sessionLawful (s : State) : Prop :=
  (s.cmi.epoch = 0 ↔ s.cmi.session = .noSession) ∧ (s.cmi.beaconTimer.isSome = true ↔ s.cmi.session ≠ .opened)
    ∧ (s.cmi.silenceTimer.isSome = true → s.cmi.session = .opened)
    ∧ (s.rpq.ackTimer.isSome = true → s.cmi.session = .opened)
    ∧ (∀ x ∈ s.ltx.sending, x.frame.kind = .reply → s.ltx.slot.isSome = true)
    ∧ (s.cmi.resetDue = true → s.ltx.slot.isSome = true)

/-- The assembly buffer against the receiver state (R141, Table 9-1): in HUNT it is empty; a payload being received is shorter
than its length; a frame in CHECK has its whole payload; a length believed is at most 240. -/
def LinkReceiver.bufferLawful (r : LinkReceiver) : Bool :=
  match r.state with
  | .hunt => decide (r.buffer = .empty ∧ r.gapTimer = none)
  | .header => decide (r.buffer.payload = [] ∧ r.buffer.crcCount = 0)
  | .payload =>
    decide (r.buffer.length.toNat ≤ 240 ∧ r.buffer.payload.length < r.buffer.length.toNat ∧ r.buffer.crcCount = 0)
  | .check => decide (r.buffer.length.toNat ≤ 240 ∧ r.buffer.payload.length = r.buffer.length.toNat)

/-- The law of the Link Receiver (R141, R145): at most 4 inbound entries of at most 240 payload bytes, and a lawful assembly
buffer. -/
abbrev LinkReceiver.lawful (r : LinkReceiver) : Prop :=
  r.inbound.length ≤ 4 ∧ (∀ e ∈ r.inbound, e.payload.length ≤ 240) ∧ r.bufferLawful = true

/-- The number of reports that an OVERFLOW record stands for (R126). -/
def Report.dropped : Report → Nat
  | .overflow n _ _ => n
  | _ => 0

/-- Every counter the host reads stays within 16 bits (00 "Counters"; R7, R28, R90, R102, R126, R146). -/
abbrev State.countersLawful (s : State) : Prop :=
  (∀ a : Axis, (s.axis a).phaseErrors ≤ 65535) ∧ (∀ n : LineNo, (s.line n).collisions ≤ 65535)
    ∧ (∀ n : StrobeNo, (s.strobe n).glitches ≤ 65535) ∧ (∀ m ∈ s.mks.marks, m.fires ≤ 65535)
    ∧ (∀ r ∈ s.rpq.records, r.body.dropped ≤ 65535) ∧ s.lrx.stats.gap ≤ 65535 ∧ s.lrx.stats.length ≤ 65535 ∧ s.lrx.stats.framing ≤ 65535
    ∧ s.lrx.stats.crc ≤ 65535 ∧ s.lrx.stats.kind ≤ 65535 ∧ s.lrx.stats.overrun ≤ 65535

end Sys2Proof.Machine
end

