-- ==== Sys2Proof/Certificates/Slice0/Obligations.lean ====
section
/-! DEFINITION. The statements for the provers. A statement of an event's result gives the whole next state, so what it does not
name is unchanged. -/

open Sys2Proof Sys2Proof.Machine

/-! ### The step -/

/-- The event at the front of the queue is taken on the state with the queue's rest. -/
def Obligations.StepTakesFrontEvent : Prop :=
  ∀ (c : Instr) (rest : List Instr) (s : State), s.pending = c :: rest → step s = exec c (s.setPending rest)

/-- With an empty queue the block puts its own due and ready events into the queue; with none of them the tick counter advances by one (R1) and only
the count of sent bytes of the frame on the line may move, whether or not an arrival is in progress: one that waits stays as it is and uses up its
pause, so that two line requests of one list can be taken at ticks that differ (R71). An arrival in progress that does not wait goes on, and the
events taken before or after a whole arrival are not scheduled meanwhile (R49). The scheduling is the model's choice (log entry 2), and so are where
an arrival waits, which may be drawn anew only when a step arrival is scheduled with none in progress and no pause listed (log entry 3), the tick at
which the count moves (log entry 18), and that no pin is sampled by it (log entry 15). -/
def Obligations.IdleStepSchedulesOrTicks : Prop :=
  ∀ s : State, s.pending = [] →
    (s.dueEvents ++ s.readyEvents ≠ [] → ∃ (drawn : List (Option Nat)) (used : Nat),
      step s = .next { s with pending := s.dueEvents ++ s.readyEvents, pauses := drawn, freeIndex := used } ∧
      (s.mks.arrival.isSome = true ∨ s.pauses ≠ [] ∨ (∀ a, .stepArrival a ∉ s.readyEvents) →
        drawn = s.pauses ∧ used = s.freeIndex)) ∧
    (s.dueEvents ++ s.readyEvents = [] →
      ∃ n : Nat, step s = .next
        { s with
          tick := s.tick + 1, ltx := { s.ltx with sending := s.ltx.sending.map fun x => { x with sent := n } }
          pauses := if s.mks.arrival.isSome then s.pauses.tail else s.pauses }) ∧
    (∀ r ∈ s.mks.arrival,
      (.stepArrival r.axis.val ∈ s.readyEvents ↔ s.pauses.head? ≠ some (some 0)) ∧
      (∀ i ∈ s.readyEvents, i = .stepArrival r.axis.val ∨ takesWhole i = false ∧ i ≠ .strobeGroupArm ∧ i ≠ .ackTimeoutSignal))

/-- An event completes exactly when it names a unit the part has; an axis event that does not stops with noSuchAxis, a strobe event with
noSuchStrobe, a line event with noSuchLine, and nothing else ever stops (Table 0-4; the three faults are the model's, log entry 20). No event touches
the queue of waiting events, a reset included (the model's choice, log entry 17); a STEP_ARRIVAL may use up one entry of the list of pauses (log
entry 3); and none moves the tick counter but a reset, which sets it to 0 (R1). -/
def Obligations.EventsCompleteAndKeepQueueAndTick : Prop :=
  (∀ (i : Instr) (s : State),
    (i.wellFormed = true ↔ ∃ t, exec i s = .next t) ∧
    (∀ n : Nat,
      ((∃ a b z, i = .filteredSample n a b z ∨ i = .pinSample n a b z) ∨ i = .timeCountExpiry n ∨ i = .stepArrival n ∨
          i = .jumpArrival n) → (i.wellFormed = true ↔ n < 8) ∧ (8 ≤ n → exec i s = .fault .noSuchAxis)) ∧
    (∀ n : Nat, (i = .strobeEdge n ∨ i = .strobeQualificationExpiry n) →
      (i.wellFormed = true ↔ n < 8) ∧ (8 ≤ n → exec i s = .fault .noSuchStrobe)) ∧
    (∀ n : Nat, i = .pulseEnd n → (i.wellFormed = true ↔ n < 16) ∧ (16 ≤ n → exec i s = .fault .noSuchLine)) ∧
    (i.wellFormed = false → exec i s = .fault .noSuchAxis ∨ exec i s = .fault .noSuchStrobe ∨ exec i s = .fault .noSuchLine)) ∧
  (∀ (i : Instr) (s t : State), exec i s = .next t →
    t.pending = s.pending ∧ (t.pauses = s.pauses ∨ ((∃ n, i = .stepArrival n) ∧ t.pauses = s.pauses.tail)) ∧
    (t.tick = s.tick ∨ (t.tick = 0 ∧ ((∃ p, i = .hardReset p) ∨ ((∃ p, i = .txFrameDone p) ∧ s.cmi.resetDue = true)))))

/-! ### Resets -/

/-- HARD_RESET: every block at its reset values (R3, R27, R85, R99, R107, R115, R136, R138, R141, R146 to R150, R70), the filters and
present levels from the pins, the link rate from the straps. The model's choices: the pins and straps are operands of the event (log entry 6), no
ACK_TIMEOUT signal outlives the reset (log entry 14), the empty assembly buffer holds fixed values (log entry 16), and the model's own three fields are
kept (log entry 17). -/
def Obligations.HardResetGivesResetValues : Prop :=
  ∀ (pins : ResetPins) (s : State), ∃ t, exec (.hardReset pins) s = .next t ∧
    t.pending = s.pending ∧ t.pauses = s.pauses ∧ t.freeIndex = s.freeIndex ∧ t.tick = 0 ∧
    (∀ a : Axis, ∃ la lb lz : Level,
      (la = .high ↔ pins.encA.getLsbD a.val = true) ∧ (lb = .high ↔ pins.encB.getLsbD a.val = true) ∧
      (lz = .high ↔ pins.encZ.getLsbD a.val = true) ∧
      t.axis a =
        { config :=
            { mode := .off, invert := false, kind := .linear, modulus := 2, filter := 0, divisor := 1, source := 0,
              indexMode := .ignore, indexQual := .either, indexPreset := 0, initial := 0 }
          pos := 0, lastDir := none, lastStep := none, interval := none, phaseFlag := false, limitFlag := false
          phaseErrors := 0, latch := none, home := .notHomed
          a := { pin := la, filtered := la, runCount := 0 }, b := { pin := lb, filtered := lb, runCount := 0 }
          z := { pin := lz, filtered := lz, runCount := 0 }, refA := la, refB := lb, timeEnd := none, arrivals := [] }) ∧
    t.mks = { marks := [], arrival := none, groupArms := [] } ∧ t.acu = none ∧
    (∀ n : LineNo,
      t.line n = { owner := .host, safe := .low, policy := .refuse, level := .low, pulse := none, collisions := 0 }) ∧
    (∀ n : StrobeNo, ∃ l : Level, (l = .high ↔ pins.stb.getLsbD n.val = true) ∧
      t.strobe n =
        { config := { edges := .none, qual := 0, mask := 0, armGroup := none }, level := l, record := none
          glitches := 0 }) ∧
    t.cpq = { records := [], overrun := false, gapPending := false, waitingNotice := false } ∧
    t.rpq =
      { records := [], mask := 127, nextSeq := 0, retries := 0, ackTimer := none, exhausted := false, signals := 0 } ∧
    t.rnc = { state := .hold, cause := .reset } ∧
    (t.lrx.rate.code = 2 * Level.code pins.rate1 + Level.code pins.rate0 ∧ t.lrx.line = .waitHigh ∧ t.lrx.state = .hunt ∧
      t.lrx.buffer = .empty ∧ t.lrx.gapTimer = none ∧ t.lrx.inbound = [] ∧
      t.lrx.stats = { gap := 0, length := 0, framing := 0, crc := 0, kind := 0, overrun := 0, last := none }) ∧
    t.ltx = { slot := none, helloPending := true, sending := none } ∧
    t.cmi =
      { session := .noSession, epoch := 0, cache := none
        params := { silence := 2000, ack := 20, retryLimit := 4, window := 8 }
        silenceTimer := none, beaconTimer := some 5000000, resetCause := .hard, resetDue := false }

/-- TX_FRAME_DONE, once the frame has occupied TXD for ten bit times for each of its bytes (R138, R147): the last byte of a REPORT or HELLO
leaves the transmitter IDLE; that of a REPLY also empties the slot (R148); when a command reset is due it makes one, which differs from a hard reset
only in the reset cause (R150, R163). Before that time there is no such event and nothing changes (log entries 1 and 10). -/
def Obligations.FrameDoneEmptiesOrResets : Prop :=
  ∀ (pins : ResetPins) (s : State) (x : Sending) (rate : Nat), s.ltx.sending = some x →
    rate = [115200, 1000000, 3000000, 6000000].getD s.lrx.rate.code 0 →
    ((s.tick - x.started).toNat * rate < 10 * (6 + x.frame.payload.length) * 10000000 → exec (.txFrameDone pins) s = .next s) ∧
    (10 * (6 + x.frame.payload.length) * 10000000 ≤ (s.tick - x.started).toNat * rate →
      (x.frame.kind ≠ .reply →
        exec (.txFrameDone pins) s = .next { s with ltx := { s.ltx with sending := none } }) ∧
      (x.frame.kind = .reply → s.cmi.resetDue = false →
        exec (.txFrameDone pins) s = .next { s with ltx := { s.ltx with sending := none, slot := none } }) ∧
      (x.frame.kind = .reply → s.cmi.resetDue = true → ∀ h, exec (.hardReset pins) s = .next h →
        exec (.txFrameDone pins) s = .next { h with cmi := { h.cmi with resetCause := .command } }))

/-! ### Axis Units -/

/-- The decode of the pin modes (R7, R8, R9, Table 1-3), before inversion. In QUAD_X4 the reference pair is judged. -/
def Obligations.PinModesDecode : Prop :=
  ∀ u v : AxisUnit,
    let forward : List (Level × Level) := [(.low, .low), (.high, .low), (.high, .high), (.low, .high), (.low, .low)]
    let follows := fun x y : Level × Level => (x, y) ∈ forward.zip forward.tail
    let old := (u.a.filtered, u.b.filtered)
    let new := (v.a.filtered, v.b.filtered)
    (u.config.mode = .quadX4 →
      (follows (u.refA, u.refB) new → u.decode v = .count .up) ∧ (follows new (u.refA, u.refB) → u.decode v = .count .down) ∧
      (u.refA ≠ v.a.filtered → u.refB ≠ v.b.filtered → u.decode v = .phaseError) ∧
      (new = (u.refA, u.refB) → u.decode v = .nothing)) ∧
    (u.config.mode = .quadX2 →
      (old.1 = .low → new = (.high, .low) → u.decode v = .count .up) ∧
      (old.1 = .low → new = (.high, .high) → u.decode v = .count .down) ∧
      (old.1 = .high → new = (.low, .high) → u.decode v = .count .up) ∧
      (old.1 = .high → new = (.low, .low) → u.decode v = .count .down) ∧ (old.1 = new.1 → u.decode v = .nothing)) ∧
    (u.config.mode = .quadX1 →
      (old.1 = .low → new = (.high, .low) → u.decode v = .count .up) ∧
      (old.1 = .high → new = (.low, .low) → u.decode v = .count .down) ∧
      (old.1 = new.1 ∨ new.2 = .high → u.decode v = .nothing)) ∧
    (u.config.mode = .stepDir →
      (old.1 = .low → new = (.high, .low) → u.decode v = .count .up) ∧
      (old.1 = .low → new = (.high, .high) → u.decode v = .count .down) ∧
      (old.1 = .high ∨ new.1 = .low → u.decode v = .nothing)) ∧
    (u.config.mode = .upDown →
      (old.1 = .low → new.1 = .high → ¬(old.2 = .low ∧ new.2 = .high) → u.decode v = .count .up) ∧
      (old.2 = .low → new.2 = .high → ¬(old.1 = .low ∧ new.1 = .high) → u.decode v = .count .down) ∧
      ((old.1 = .low → new.1 = .high → old.2 = .low ∧ new.2 = .high) → (old.2 = .low → new.2 = .high → old.1 = .low ∧ new.1 = .high) →
        u.decode v = .nothing)) ∧
    (u.config.mode = .off ∨ u.config.mode = .timebase ∨ u.config.mode = .revs → u.decode v = .nothing)

/-- The input filter and the two kinds of sample (R5). Under filter f a new level is taken at the (2f + 1)-th consecutive sample that reads
it, and not before; a sample that reads the filtered level returns the run count to 0. PIN_SAMPLE, a sample that changes no filtered level, moves
only the pin levels and run counts of its axis; each of the two events changes nothing at a sample of the other kind (the model's choice, log entry
1). -/
def Obligations.SamplesFilterThePins : Prop :=
  (∀ (p : PinFilter) (f k : Nat) (v : Level),
    (p.filtered ≠ v → p.runCount = 0 → k ≤ 2 * f →
      ((fun q => PinFilter.sample q f v)^[k] p).filtered = p.filtered ∧
      ((fun q => PinFilter.sample q f v)^[k] p).runCount = k) ∧
    (p.filtered ≠ v → p.runCount = 0 →
      (fun q => PinFilter.sample q f v)^[2 * f + 1] p = { pin := v, filtered := v, runCount := 0 }) ∧
    (p.filtered = v → p.sample f v = { pin := v, filtered := v, runCount := 0 })) ∧
  (∀ (s : State) (a : Axis) (la lb lz : Level) (v : AxisUnit), v = (s.axis a).sample la lb lz →
    ((s.axis a).filteredChange v = false →
      exec (.pinSample a.val la lb lz) s = .next (s.setAxis a v) ∧ exec (.filteredSample a.val la lb lz) s = .next s) ∧
    ((s.axis a).filteredChange v = true → exec (.pinSample a.val la lb lz) s = .next s))

/-- A filtered sample (R6, R7, R12 to R18, R20), in every form. First what A and B bring: a step with room for it, a refusal at the LINEAR limit or
a phase error, each of the two with its flag and, if that was clear, one report, or nothing; a count that REVS axes follow brings about what
`State.count` gives, which the statement of their chains says. In QUAD_X4 the new pair becomes the reference. Then a rising edge of the filtered
index level, judged on what that has left: an edge that passes the qualifier latches, presets by a jump and reports as the index mode says; on an
OFF axis, in mode IGNORE, or when the qualifier fails, it leaves no trace. That a phase error too comes before the index, and so does what a wrap
brings about at the REVS axes, is the model's choice (log entries 21 and 22). -/
def Obligations.FilteredSampleCountsThenIndexes : Prop :=
  ∀ (s : State) (a : Axis) (la lb lz : Level) (v w : AxisUnit) (c : State),
    v = (s.axis a).sample la lb lz → (s.axis a).filteredChange v = true →
    w = { v with
      refA := if v.config.mode = .quadX4 then v.a.filtered else v.refA
      refB := if v.config.mode = .quadX4 then v.b.filtered else v.refB } →
    (((s.axis a).decode v = .nothing ∧ c = s.setAxis a w) ∨
      (∃ (d e : Direction) (q : Int), (s.axis a).decode v = .count d ∧ e = (if v.config.invert then d.flip else d) ∧
        v.config.moves v.pos e q ∧ (s.noFollower a ∨ q = v.pos + Direction.delta e) ∧
        c = s.setAxis a
          { w with
            pos := q
            interval := v.lastStep.map fun b => min (s.tick - b).toNat 4294967295
            lastStep := some s.tick
            lastDir := some e
            arrivals := v.arrivals ++ [.step q e s.tick] }) ∨
      (∃ d : Direction, (s.axis a).decode v = .count d ∧ v.config.atLimit v.pos (if v.config.invert then d.flip else d) ∧
        c = (s.setAxis a { w with limitFlag := true }).reportIf (!v.limitFlag)
          (.axisFault a .limit v.pos s.tick v.phaseErrors)) ∨
      (∃ d : Direction, (s.axis a).decode v = .count d ∧ c = (s.setAxis a w).count a d) ∨
      ((s.axis a).decode v = .phaseError ∧
        c = (s.setAxis a { w with phaseFlag := true, phaseErrors := min (v.phaseErrors + 1) 65535 }).reportIf (!v.phaseFlag)
          (.axisFault a .phase v.pos s.tick (min (v.phaseErrors + 1) 65535)))) →
    (¬((s.axis a).z.filtered = .low ∧ v.z.filtered = .high) → exec (.filteredSample a.val la lb lz) s = .next c) ∧
    ((s.axis a).z.filtered = .low → v.z.filtered = .high → ∀ (x : AxisUnit) (pass : Bool), x = c.axis a →
      (pass = true ↔ x.config.mode ≠ .off ∧
        (x.config.indexQual = .either ∨ (x.config.indexQual = .up ∧ x.lastDir = some .up) ∨
          (x.config.indexQual = .down ∧ x.lastDir = some .down))) →
      (pass = false ∨ x.config.indexMode = .ignore → exec (.filteredSample a.val la lb lz) s = .next c) ∧
      (pass = true → x.config.indexMode = .latch →
        exec (.filteredSample a.val la lb lz) s =
          .next ((c.setAxis a { x with latch := some { pos := x.pos, tick := s.tick } }).report
            (.indexSeen a x.pos x.pos s.tick x.home))) ∧
      (pass = true → x.config.indexMode = .homeOnce →
        exec (.filteredSample a.val la lb lz) s =
          .next ((c.setAxis a
            { x with
              latch := some { pos := x.pos, tick := s.tick }, pos := x.config.indexPreset, home := .homed
              config := { x.config with indexMode := .latch }
              arrivals := x.arrivals ++ [.jump x.config.indexPreset s.tick] }).report
            (.indexSeen a x.pos x.config.indexPreset s.tick .homed))) ∧
      (pass = true → x.config.indexMode = .homeEvery →
        exec (.filteredSample a.val la lb lz) s =
          .next ((c.setAxis a
            { x with
              latch := some { pos := x.pos, tick := s.tick }, pos := x.config.indexPreset, home := .homed
              arrivals := x.arrivals ++ [.jump x.config.indexPreset s.tick] }).report
            (.indexSeen a x.pos x.config.indexPreset s.tick .homed))))

/-- TIME_COUNT_EXPIRY (R10, R15): the time count restarts with the divisor, and gives one count, UP or with invert DOWN, taken as a step
or refused at the LINEAR limit; away from its end tick it
changes nothing (the model's choice, log entry 1). A wrap that a REVS axis follows is another statement. -/
def Obligations.TimeCountRestartsAndCounts : Prop :=
  ∀ (s : State) (a : Axis) (u v : AxisUnit) (e : Direction), u = s.axis a →
    e = (if u.config.invert then .down else .up) →
    v = { u with timeEnd := some (s.tick + BitVec.ofNat 48 u.config.divisor) } →
    (u.timeEnd ≠ some s.tick → exec (.timeCountExpiry a.val) s = .next s) ∧
    (u.timeEnd = some s.tick → u.config.atLimit u.pos e →
      exec (.timeCountExpiry a.val) s =
        .next ((s.setAxis a { v with limitFlag := true }).reportIf (!u.limitFlag)
          (.axisFault a .limit u.pos s.tick u.phaseErrors))) ∧
    (∀ q : Int, u.timeEnd = some s.tick → u.config.moves u.pos e q → s.noFollower a →
      exec (.timeCountExpiry a.val) s =
        .next (s.setAxis a
          { v with
            pos := q
            interval := u.lastStep.map fun b => min (s.tick - b).toNat 4294967295
            lastStep := some s.tick
            lastDir := some e
            arrivals := u.arrivals ++ [.step q e s.tick] }))

/-- A count with everything it brings about at the axes that count wraps (R4 check 6, R11, R13 to R16, R20), for a filtered sample in a pin mode and for
a time count, with chains of REVS axes of any length. `got` names the axes that get a count and its direction before their own inversion: the
axis itself, and every axis whose source got a count that wraps it, with the wrap's direction. Each of them takes one step at the same tick, or is
refused at its LINEAR limit with its flag set and one report if that was clear; every other axis and every other block is unchanged. The order of the
reports is left open (the model's is log entry 9). With no rising index edge this is the whole event; with one, the index is taken on it, as the
statement of the filtered sample says. -/
def Obligations.CountReachesChainsOfRevsAxes : Prop :=
  ∀ (s : State) (a : Axis) (d : Direction) (u : AxisUnit) (i : Instr) (unit : Axis → AxisUnit) (turn : Axis → Direction → Direction)
    (got : Axis → Option Direction),
    s.axesLawful → (∀ x b : Axis, s.sourceOf b = some x → ¬s.sourceChainMeets x b) → s.sourceOf a = none →
    ((i = .timeCountExpiry a.val ∧ d = .up ∧ (s.axis a).timeEnd = some s.tick ∧
        u = { s.axis a with timeEnd := some (s.tick + BitVec.ofNat 48 (s.axis a).config.divisor) }) ∨
      (∃ (la lb lz : Level) (v : AxisUnit), i = .filteredSample a.val la lb lz ∧ v = (s.axis a).sample la lb lz ∧
        (s.axis a).filteredChange v = true ∧ (s.axis a).decode v = .count d ∧
        u = { v with
          refA := if v.config.mode = .quadX4 then v.a.filtered else v.refA
          refB := if v.config.mode = .quadX4 then v.b.filtered else v.refB })) →
    (∀ b, unit b = if b = a then u else s.axis b) → (∀ b e, turn b e = if (unit b).config.invert then e.flip else e) →
    got a = some d →
    (∀ b, b ≠ a → ∀ e : Direction, got b = some e ↔ ∃ (x : Axis) (f : Direction), s.sourceOf b = some x ∧ got x = some f ∧
      turn x f = e ∧ (unit x).config.kind = .rotary ∧
      (unit x).pos = (match e with | .up => ((unit x).config.modulus : Int) - 1 | .down => 0)) →
    ∃ (t : State) (axes : Vector AxisUnit 8) (refused : List Axis),
      t =
        { s with
          axes := axes
          rpq := refused.foldl (fun q b => q.take (.axisFault b .limit (unit b).pos s.tick (unit b).phaseErrors) s.tick) s.rpq } ∧
      (s.setAxis a u).count a d = t ∧
      ((s.axis a).z.filtered = .high ∨ u.z.filtered = .low → exec i s = .next t) ∧
      refused.Nodup ∧
      (∀ b, b ∈ refused ↔ (unit b).limitFlag = false ∧ ∃ e, got b = some e ∧ (unit b).config.atLimit (unit b).pos (turn b e)) ∧
      ∀ b : Axis,
        (got b = none → axes[b.val] = unit b) ∧
        (∀ e : Direction, got b = some e →
          ((unit b).config.atLimit (unit b).pos (turn b e) → axes[b.val] = { unit b with limitFlag := true }) ∧
          (∀ q : Int, (unit b).config.moves (unit b).pos (turn b e) q →
            axes[b.val] =
              { unit b with
                pos := q
                interval := (unit b).lastStep.map fun t => min (s.tick - t).toNat 4294967295
                lastStep := some s.tick
                lastDir := some (turn b e)
                arrivals := (unit b).arrivals ++ [.step q (turn b e) s.tick] }))

/-! ### Marks -/

/-- The list of an axis holds exactly its defined marks, each once, by current target and then by id (R31). -/
def Obligations.AxisListIsSortedAndExact : Prop :=
  ∀ (s : State) (a : Axis), (s.mks.marks.map (·.id)).Pairwise (· < ·) →
    (s.axisMarks a).Pairwise (fun m n => m.target < n.target ∨ (m.target = n.target ∧ m.id < n.id)) ∧
    ∀ m : Mark, m ∈ s.axisMarks a ↔ m ∈ s.mks.marks ∧ m.axis = a

/-- The aligned target of a PITCH mark on a LINEAR axis is the first of base ± k·S strictly ahead of the position (R36); and the state
transition of a fired mark: ONCE SPENT, REPEAT REARMING, PITCH one pitch further with its count charged (R56, R57). -/
def Obligations.PitchTargetsAlignAndAdvance : Prop :=
  (∀ (base p : Int) (step : Nat), 1 ≤ step →
    (∃ k : Nat, alignedTarget .up base step p = base + k * step ∧ p < base + k * step ∧
      ∀ j : Nat, j < k → base + j * step ≤ p) ∧
    (∃ k : Nat, alignedTarget .down base step p = base - k * step ∧ base - k * step < p ∧
      ∀ j : Nat, j < k → p ≤ base - j * step)) ∧
  (∀ (m : Mark) (c : AxisConfig),
    (m.kind = .once → m.fired c = { m with state := .spent }) ∧
    (∀ h, m.kind = .repeating h → m.fired c = { m with state := .rearming }) ∧
    (∀ (step : Nat) (count remaining : Option Nat) (next : Int), m.kind = .pitch step count remaining →
      next = (match m.qual with | .down => m.target - step | _ => m.target + step) →
      (c.kind = .rotary →
        m.fired c =
          { m with
            target := next % c.modulus, kind := .pitch step count (remaining.map (· - 1))
            state := if remaining.map (· - 1) = some 0 then .spent else .armed }) ∧
      (c.kind = .linear → -2147483648 ≤ next → next ≤ 2147483647 →
        m.fired c =
          { m with
            target := next, kind := .pitch step count (remaining.map (· - 1))
            state := if remaining.map (· - 1) = some 0 then .spent else .armed }) ∧
      (c.kind = .linear → (next < -2147483648 ∨ 2147483647 < next) →
        m.fired c = { m with kind := .pitch step count (remaining.map (· - 1)), state := .spent })))

/-- The RUN catch-up of one mark (R65, R66, R67): only an ARMED PITCH mark on a LINEAR axis whose target is behind is advanced, by the
least k that puts its target strictly ahead, with the remaining count charged. -/
def Obligations.CatchUpSkipsLeastTargets : Prop :=
  (∀ (m : Mark) (c : AxisConfig) (p : Int), (m.kind = .once ∨ ∃ h, m.kind = .repeating h) → m.catchUp c p = none) ∧
  (∀ (m : Mark) (c : AxisConfig) (p : Int) (step : Nat) (count remaining : Option Nat) (dir : Int),
    m.kind = .pitch step count remaining → 1 ≤ step → (m.qual = .up ∧ dir = 1 ∨ m.qual = .down ∧ dir = -1) →
    (m.catchUp c p = none ↔ ¬(m.state = .armed ∧ c.kind = .linear ∧ 0 ≤ dir * (p - m.target))) ∧
    (∀ (n : Mark) (k : Nat), m.catchUp c p = some (n, k) →
      1 ≤ k ∧ dir * (p - m.target) < k * step ∧ (∀ j : Nat, j < k → (j : Int) * step ≤ dir * (p - m.target)) ∧
      (let next := m.target + dir * k * step
       let spent := (∃ r, remaining = some r ∧ r ≤ k) ∨ next < -2147483648 ∨ 2147483647 < next
       n = { m with
         state := if spent then .spent else .armed
         target := if spent then m.target else next
         kind := .pitch step count (remaining.map (· - k)) })))

/-- A step arrival in HOLD and a jump arrival in either run state pass through the band phase only (R50, R51, R62, R64): the arrival
leaves its order, each REARMING mark of the axis at band distance H or more becomes ARMED, and nothing else changes. No arrival is in progress
before, and the step arrival is not paused (log entry 3). -/
def Obligations.ArrivalWithoutFiringBandChecks : Prop :=
  ∀ (s : State) (a : Axis) (p : Int) (t : Tick) (rest : List Arrival) (banded : State), s.quiet →
    banded = { s.setAxis a { s.axis a with arrivals := rest } with
      mks := { s.mks with
        marks := s.mks.marks.map fun m =>
          match m.kind with
          | .repeating h =>
            if m.axis = a ∧ m.state = .rearming ∧ h ≤ (s.axis a).config.distance p m.target then { m with state := .armed }
            else m
          | _ => m } } →
    ((s.axis a).arrivals = .jump p t :: rest → exec (.jumpArrival a.val) s = .next banded) ∧
    (∀ d : Direction, (s.axis a).arrivals = .step p d t :: rest → s.rnc.state = .hold → s.unpaused →
      exec (.stepArrival a.val) s = .next { banded with pauses := s.pauses.tail })

/-- A step arrival in RUN whose selected marks have no actions (R50 to R57): exactly the ARMED marks of the axis with that target and an
accepting qualifier fire, in ascending id order; each is counted, reported if its flag is YES, and makes its transition; every other mark of the
axis is band-checked. No arrival is in progress before, and this one is not paused (log entry 3). -/
def Obligations.StepArrivalFiresSelectedMarks : Prop :=
  ∀ (s : State) (a : Axis) (p : Int) (d : Direction) (t : Tick) (rest : List Arrival) (selected : Mark → Bool),
    (∀ m, selected m = true ↔ m.axis = a ∧ m.state = .armed ∧ m.target = p ∧
      (m.qual = .either ∨ (m.qual = .up ∧ d = .up) ∨ (m.qual = .down ∧ d = .down))) →
    (s.axis a).arrivals = .step p d t :: rest → s.rnc.state = .run → s.quiet → s.unpaused → s.marksLawful →
    (∀ m ∈ s.mks.marks, selected m = true → m.actions = []) →
    exec (.stepArrival a.val) s = .next
      { s.setAxis a { s.axis a with arrivals := rest } with
        pauses := s.pauses.tail
        mks := { s.mks with
          marks := s.mks.marks.map fun m =>
            if selected m then
              Mark.fired { m with fires := min (m.fires + 1) 65535, lastFire := some t } (s.axis a).config
            else if m.axis = a then m.bandCheck (s.axis a).config p else m }
        rpq := (s.mks.marks.filter fun m => selected m && m.report).foldl
          (fun q m => q.take (.markFired m.id a p d t (min (m.fires + 1) 65535) p) s.tick) s.rpq }

/-- A step arrival in RUN that selects one mark with one line entry (R54, R55, R73, R74): on a MARK-owned line the entry acts on the line at the
present tick; on a HOST-owned line it is skipped with LINE_NOT_MARK_OWNED; the mark fires either way. That the entry is taken at the present tick of
the step, with no tick between, is the model's choice (log entry 3). -/
def Obligations.FiredMarkDrivesItsLine : Prop :=
  ∀ (s : State) (a : Axis) (d : Direction) (t : Tick) (rest : List Arrival) (m : Mark) (n : LineNo) (act : Action)
    (l : Line),
    (s.axis a).arrivals = .step m.target d t :: rest → s.rnc.state = .run → s.quiet → s.unpaused → s.mks.marks = [m] → m.axis = a →
    m.state = .armed → m.qual = .either → m.report = false → m.actions = [act] →
    ((∃ v, act = .set n v ∧ l = { s.line n with level := v, pulse := none }) ∨
      (act = .toggle n ∧ l = { s.line n with level := (s.line n).level.flip, pulse := none }) ∨
      (∃ v w, act = .pulse n v w ∧ ((s.line n).pulse = none ∨ (s.line n).policy = .restart) ∧
        l = { s.line n with level := v, pulse := some { level := v, endTick := s.tick + BitVec.ofNat 48 (10 * w) } })) →
    ∃ fired : Mark, fired = Mark.fired { m with fires := min (m.fires + 1) 65535, lastFire := some t } (s.axis a).config ∧
      ((s.line n).owner = .mark →
        exec (.stepArrival a.val) s = .next
          { (s.setAxis a { s.axis a with arrivals := rest }).setLine n l with
            pauses := s.pauses.tail, mks := { s.mks with marks := [fired] } }) ∧
      ((s.line n).owner = .host →
        exec (.stepArrival a.val) s = .next
          { s.setAxis a { s.axis a with arrivals := rest } with
            pauses := s.pauses.tail
            mks := { s.mks with marks := [fired] }
            rpq := s.rpq.take (.actionSkipped m.id 0 .lineNotMarkOwned t) s.tick })

/-- The stages of a step arrival, after any of which it may pause (R49 to R60, R64, R70, R71; where it pauses is the model's own field, log entry 3).
STEP_ARRIVAL begins the arrival at the head of the order with its record, the band phase and in RUN the fire list, or goes on with the one in
progress. A stage is: the next entry of the running list; the end of a firing, its report and, unless the mark was disarmed during its own list,
its transition; the turn of the next id, whose mark is counted and its list handed over if it is still ARMED and not disarmed since, and passed over
else; or the end. The fire list is never extended, and a disarming is never forgotten: so a mark armed during the arrival does not fire at it, nor
does one disarmed before its turn. -/
def Obligations.StepArrivalGoesOnByStages : Prop :=
  (∀ (s : State) (a : Axis) (n : Nat) (paused : List (Option Nat)), s.pauses = some n :: paused →
    (∀ r, s.mks.arrival = some r → r.axis = a →
      exec (.stepArrival a.val) s = .next (({ s with pauses := paused } : State).stages n)) ∧
    (∀ (p : Int) (d : Direction) (t : Tick) (rest : List Arrival) (ids : List MarkId), s.mks.arrival = none →
      (s.axis a).arrivals = .step p d t :: rest → s.marksLawful → ids.Pairwise (· < ·) →
      (∀ id, id ∈ ids ↔ s.rnc.state = .run ∧ ∃ m ∈ s.mks.marks, m.id = id ∧ m.axis = a ∧ m.state = .armed ∧ m.target = p ∧
        (m.qual = .either ∨ (m.qual = .up ∧ d = .up) ∨ (m.qual = .down ∧ d = .down))) →
      exec (.stepArrival a.val) s = .next
        (({ s.setAxis a { s.axis a with arrivals := rest } with
            pauses := paused
            mks := { s.mks with
              marks := s.mks.marks.map fun m : Mark => if m.axis = a then m.bandCheck (s.axis a).config p else m
              arrival := some
                { axis := a, arrival := .step p d t, run := s.rnc.state, fireList := ids, firing := none, disarmed := []
                  reads := p } } } : State).stages n))) ∧
  (∀ s : State, s.stages 0 = s ∧ ∀ n, s.stages (n + 1) = s.stage.stages n) ∧
  (∀ s : State, s.mks.arrival = none → s.stage = s) ∧
  (∀ (s : State) (r : ArrivalRecord) (p : Int) (d : Direction) (t : Tick) (put : ArrivalRecord → MarkScheduler),
    s.mks.arrival = some r → r.arrival = .step p d t → (∀ x, put x = { s.mks with arrival := some x }) →
    (∀ (c : ActionContext) (done more : List Action) (x : Action), s.acu = some c → c.list = done ++ x :: more → c.index = done.length →
      s.stage =
        { s.takeEntry c x with acu := if more = [] then none else some { c with index := c.index + 1 } }) ∧
    (∀ (id : MarkId) (m : Mark) (u : State), s.acu = none → r.firing = some id → s.mark id = some m →
      u = (if m.report then s.report (.markFired m.id m.axis p d t m.fires p) else s) →
      s.stage =
        { u with
          mks := { put { r with firing := none } with
            marks := if id ∈ r.disarmed then s.mks.marks else putRecord (m.fired (s.axis m.axis).config) s.mks.marks } }) ∧
    (∀ (id : MarkId) (more : List MarkId), s.acu = none → r.firing = none → r.fireList = id :: more →
      (∀ m, s.mark id = some m → m.state = .armed → id ∉ r.disarmed →
        s.stage =
          { s with
            mks := { put { r with fireList := more, firing := some m.id } with
              marks := putRecord { m with fires := min (m.fires + 1) 65535, lastFire := some t } s.mks.marks }
            acu := if m.actions = [] then none else some { mark := m.id, tick := t, list := m.actions, index := 0 } }) ∧
      ((∀ m, s.mark id = some m → m.state ≠ .armed) ∨ id ∈ r.disarmed →
        s.stage = { s with mks := put { r with fireList := more } })) ∧
    (s.acu = none → r.firing = none → r.fireList = [] → s.stage = { s with mks := { s.mks with arrival := none } }) ∧
    (∀ x, s.stage.mks.arrival = some x →
      (x.fireList = r.fireList ∨ ∃ id, r.fireList = id :: x.fireList) ∧ ∀ id ∈ r.disarmed, id ∈ x.disarmed))

/-- Wherever a step arrival pauses, with no tick and no other event between its stages, it ends the same: any number of stages taken, then taken to its end, gives what taking it to its end at once
gives; some number of stages is all of it; and no arrival is in progress then (R49, R53, R70). Neither the link nor the run state nor the clock is
touched by it. A step arrival of another axis, a jump arrival and a strobe group arm take the arrival in progress to its end first. Every other
event but a session loss, a reset and the commands taken before or after a whole arrival leaves the arrival in progress, its action list and every
mark as they are; what those do with it, other statements say. -/
def Obligations.PausedArrivalEndsTheSame : Prop :=
  (∀ s : State,
    s.stage.settled = s.settled ∧ (∀ n, (s.stages n).settled = s.settled) ∧ (∃ n, s.stages n = s.settled) ∧
    s.settled.mks.arrival = none ∧ (s.mks.arrival = none → s.settled = s) ∧
    s.settled =
      { s with
        axes := s.settled.axes, mks := { s.settled.mks with groupArms := s.mks.groupArms }, acu := s.settled.acu
        lines := s.settled.lines, cpq := s.settled.cpq, rpq := s.settled.rpq }) ∧
  (∀ (s : State) (a : Axis) (r : ArrivalRecord), s.mks.arrival = some r →
    (r.axis = a → s.unpaused → exec (.stepArrival a.val) s = .next ({ s with pauses := s.pauses.tail } : State).settled) ∧
    (r.axis ≠ a → ∀ u : State, u = ({ s with pauses := s.pauses.tail } : State).settled →
      exec (.stepArrival a.val) s = exec (.stepArrival a.val) { u with pauses := s.pauses }) ∧
    exec (.jumpArrival a.val) s = exec (.jumpArrival a.val) s.settled ∧
    exec .strobeGroupArm s = exec .strobeGroupArm s.settled) ∧
  (∀ (i : Instr) (s t : State), exec i s = .next t → takesWhole i = false → (∀ n, i ≠ .stepArrival n ∧ i ≠ .jumpArrival n) →
    i ≠ .strobeGroupArm → i ≠ .silenceTimerExpiry → i ≠ .ackTimeoutSignal → (∀ p, i ≠ .hardReset p) →
    (∀ p, i = .txFrameDone p → s.cmi.resetDue = false) →
    t.mks.arrival = s.mks.arrival ∧ t.acu = s.acu ∧ t.mks.marks = s.mks.marks)

/-- The entries of an action list, in any state and context (R59, R60, R72 to R74, R77, R79, R80, R82, R83, R87 to R90, R108): their checks in
order, their skips with one report that names the mark, the entry and the arrival's tick, and their whole effect. SET, TOGGLE and PULSE act on a
MARK-owned line as it stands, at the present tick (log entry 3), and are skipped on a HOST-owned one. ARM_GROUP arms each DISARMED or SPENT member
against the position of its axis, which on the axis of the arrival in progress is the arrival's, or that of an earlier PRESET entry (log entry 25).
DISARM_GROUP disarms the members and the arrival in progress keeps note of each. -/
def Obligations.ActionEntriesAreCheckedAndTaken : Prop :=
  ∀ (s : State) (c : ActionContext) (n : LineNo) (v : Level) (w : Nat) (mask : BitVec 8) (b : Axis) (x : Int) (g : GroupNo),
    ((s.line n).owner = .mark →
      s.takeEntry c (.set n v) = s.setLine n { s.line n with level := v, pulse := none } ∧
      s.takeEntry c (.toggle n) =
        s.setLine n { s.line n with level := (match (s.line n).level with | .low => .high | .high => .low), pulse := none } ∧
      ((s.line n).pulse = none ∨ (s.line n).policy = .restart →
        s.takeEntry c (.pulse n v w) =
          s.setLine n { s.line n with
            level := v, pulse := some { level := v, endTick := s.tick + BitVec.ofNat 48 (10 * w) } })) ∧
    ((s.line n).owner = .host → ∀ act, act = .set n v ∨ act = .toggle n ∨ act = .pulse n v w →
      s.takeEntry c act = s.report (.actionSkipped c.mark c.index .lineNotMarkOwned c.tick)) ∧
    ((s.line n).owner = .mark → (s.line n).pulse.isSome = true → (s.line n).policy = .refuse →
      s.takeEntry c (.pulse n v w) =
        (s.setLine n { s.line n with collisions := min ((s.line n).collisions + 1) 65535 }).report
          (.actionSkipped c.mark c.index .lineBusy c.tick)) ∧
    ((∀ a : Axis, mask.getLsbD a.val = true → (s.axis a).config.mode = .off) →
      s.takeEntry c (.snapshot mask) = s.report (.actionSkipped c.mark c.index .axisOff c.tick)) ∧
    ((∃ a : Axis, mask.getLsbD a.val = true ∧ (s.axis a).config.mode ≠ .off) → s.cpq.records.length < 128 →
      s.takeEntry c (.snapshot mask) =
        ({ s with
            cpq := { s.cpq with
              records := s.cpq.records ++
                [{ source := .mark c.mark, gap := s.cpq.gapPending, tick := c.tick, mask := mask, positions := s.positions mask }]
              gapPending := false, waitingNotice := true } } : State).reportIf (!s.cpq.waitingNotice)
          (.capturesWaiting (s.cpq.records.length + 1) s.tick)) ∧
    ((∃ a : Axis, mask.getLsbD a.val = true ∧ (s.axis a).config.mode ≠ .off) → 128 ≤ s.cpq.records.length →
      s.takeEntry c (.snapshot mask) =
        (({ s with cpq := { s.cpq with overrun := true, gapPending := true } }).reportIf (!s.cpq.overrun)
          (.captureOverrun c.tick (.mark c.mark))).report (.actionSkipped c.mark c.index .captureFull c.tick)) ∧
    ((s.axis b).config.mode = .off →
      s.takeEntry c (.preset b x) = s.report (.actionSkipped c.mark c.index .axisOff c.tick)) ∧
    ((s.axis b).config.mode ≠ .off → (s.axis b).config.inRange x = false →
      s.takeEntry c (.preset b x) = s.report (.actionSkipped c.mark c.index .presetRange c.tick)) ∧
    ((s.axis b).config.mode ≠ .off → (s.axis b).config.inRange x = true →
      s.takeEntry c (.preset b x) =
        { s.setAxis b
            { s.axis b with
              pos := x, lastStep := none, interval := none, arrivals := (s.axis b).arrivals ++ [.jump x s.tick] } with
          mks := { s.mks with
            arrival := s.mks.arrival.map fun r => { r with reads := if r.axis = b then x else r.reads } } }) ∧
    (∀ seen : Axis → Int,
      (∀ a, (∀ r ∈ s.mks.arrival, r.axis ≠ a) → seen a = (s.axis a).pos) → (∀ r ∈ s.mks.arrival, seen r.axis = r.reads) →
      s.marksLawful →
      s.takeEntry c (.armGroup g) =
        { s with
          mks := { s.mks with
            marks := s.mks.marks.map fun m : Mark =>
              if m.group = g ∧ m.active = false ∧ m.armable (s.axis m.axis).config (seen m.axis) = true then
                m.arm (s.axis m.axis).config (seen m.axis)
              else m } }) ∧
    (s.marksLawful → ∃ ids : List MarkId,
      (∀ id, id ∈ ids ↔ ∃ m ∈ s.mks.marks, m.id = id ∧ m.group = g ∧ m.state ≠ .disarmed) ∧
      s.takeEntry c (.disarmGroup g) =
        { s with
          mks := { s.mks with
            marks := s.mks.marks.map fun m : Mark => if m.group = g then { m with state := .disarmed } else m
            arrival := s.mks.arrival.map fun r => { r with disarmed := ids ++ r.disarmed } } })

/-- Group arming and disarming (R30, R37, R43, R44, R82, R83, R104): STROBE_GROUP_ARM in RUN arms every DISARMED or SPENT member of its
group that passes the range check, and in HOLD only drops the request; ARM_GROUP and DISARM_GROUP do the same as commands, with BAD_ARGUMENT for a
group outside 0 to 15, and answer how many marks were armed, failed the range check, or changed; every other mark and every other block stays as it
is. All act after an arrival in progress has been taken to its end (R49). -/
def Obligations.GroupsReachExactlyTheirMembers : Prop :=
  (∀ (s : State) (g : GroupNo) (rest : List GroupNo) (u popped : State), u = s.settled → u.marksLawful →
    popped = { u with mks := { u.mks with groupArms := rest } } →
    (u.mks.groupArms = g :: rest → u.rnc.state = .hold → exec .strobeGroupArm s = .next popped) ∧
    (u.mks.groupArms = g :: rest → u.rnc.state = .run →
      exec .strobeGroupArm s = .next
        { popped with
          mks := { popped.mks with
            marks := u.mks.marks.map fun m : Mark =>
              if m.group = g ∧ m.active = false ∧ m.armable (u.axis m.axis).config (u.axis m.axis).pos = true then
                m.arm (u.axis m.axis).config (u.axis m.axis).pos
              else m } }) ∧
    (u.disarmMembers g).1 =
      { u with
        mks := { u.mks with
          marks := u.mks.marks.map fun m : Mark => if m.group = g then { m with state := .disarmed } else m } }) ∧
  (∀ (s : State) (e : Entry) (rest : List Entry) (code n : Byte) (g : GroupNo) (u : State), s.executesOn e rest u →
    code = 0x24 ∨ code = 0x25 → e.payload = [code, n] →
    (16 ≤ n.toNat → exec e.row s = .next (u.answered e .badArgument [])) ∧
    (n.toNat = g.val → u.marksLawful →
      (code = 0x24 → ∃ arms fails : Mark → Bool,
        (∀ m, arms m = (decide (m.group = g) && !m.active && m.armable (u.axis m.axis).config (u.axis m.axis).pos)) ∧
        (∀ m, fails m = (decide (m.group = g) && !m.active && !m.armable (u.axis m.axis).config (u.axis m.axis).pos)) ∧
        exec .armGroup s = .next
          ((({ u with
              mks := { u.mks with
                marks := u.mks.marks.map fun m : Mark =>
                  if arms m then m.arm (u.axis m.axis).config (u.axis m.axis).pos else m } } : State)).answered e .ok
            (put16 (u.mks.marks.filter arms).length ++ put16 (u.mks.marks.filter fails).length))) ∧
      (code = 0x25 →
        exec .disarmGroup s = .next
          (({ u with
              mks := { u.mks with
                marks := u.mks.marks.map fun m : Mark => if m.group = g then { m with state := .disarmed } else m } }).answered e .ok
            (put16 (u.mks.marks.filter fun m : Mark => decide (m.group = g) && decide (m.state ≠ MarkState.disarmed)).length)))))

/-! ### Lines, strobes, captures, reports -/

/-- PULSE_END, ACK_TIMER_EXPIRY and HELLO_BEACON_EXPIRY (R2, R91, R132, R133, R134, R153). Each acts only at the end tick of its own timer
(away from it there is no such event: the model's choice, log entry 1).
A pulse end gives the opposite of the pulse level and no pulse. Below the retry limit every AWAITING record becomes RESEND, the retry count rises and the
timer restarts; at the limit the queue sets its exhausted flag, stops the timer and signals ACK_TIMEOUT, every record kept. The beacon, in NO_SESSION or
LOST, calls for a HELLO and restarts with 500 ms. -/
def Obligations.TimersActAtTheirEndTick : Prop :=
  (∀ (s : State) (n : LineNo),
    (∀ v : Level, (s.line n).pulse = some { level := v, endTick := s.tick } →
      exec (.pulseEnd n.val) s =
        .next (s.setLine n { s.line n with level := (match v with | .low => .high | .high => .low), pulse := none })) ∧
    ((∀ p ∈ (s.line n).pulse, p.endTick ≠ s.tick) → exec (.pulseEnd n.val) s = .next s)) ∧
  (∀ s : State,
    (s.rpq.ackTimer ≠ some s.tick → exec .ackTimerExpiry s = .next s) ∧
    (s.rpq.ackTimer = some s.tick → s.rpq.retries < s.cmi.params.retryLimit →
      exec .ackTimerExpiry s = .next
        { s with
          rpq := { s.rpq with
            retries := s.rpq.retries + 1
            ackTimer := some (s.tick + BitVec.ofNat 48 (10000 * s.cmi.params.ack))
            records := s.rpq.records.map fun r =>
              match r.send with
              | .awaiting n => { r with send := .resend n }
              | _ => r } }) ∧
    (s.rpq.ackTimer = some s.tick → s.cmi.params.retryLimit ≤ s.rpq.retries →
      exec .ackTimerExpiry s = .next
        { s with rpq := { s.rpq with exhausted := true, ackTimer := none, signals := s.rpq.signals + 1 } })) ∧
  (∀ s : State,
    (s.cmi.beaconTimer = some s.tick → s.cmi.session ≠ .opened →
      exec .helloBeaconExpiry s = .next
        { s with
          cmi := { s.cmi with beaconTimer := some (s.tick + 5000000) }
          ltx := { s.ltx with helloPending := true } }) ∧
    (s.cmi.beaconTimer ≠ some s.tick ∨ s.cmi.session = .opened → exec .helloBeaconExpiry s = .next s))

/-- Set and toggle requests of the owner (R87, R88), for every line, requester and tick: both cancel any pulse in flight, neither is
refused for one whatever the policy, and neither changes the collision count. A set makes the level V. A toggle makes it the opposite of the level held,
which during a pulse is the pulse level; two toggles return the line to its first level with no pulse in flight; and after either no pulse end
follows. -/
def Obligations.SetAndToggleCancelPulses : Prop :=
  ∀ (l : Line) (t : Tick),
    (∀ v : Level, l.request l.owner (.set v) t = .taken { l with level := v, pulse := none }) ∧
    l.request l.owner .toggle t = .taken { l with level := (match l.level with | .low => .high | .high => .low), pulse := none } ∧
    (∀ (v : Level) (e : Tick), l.level = v → l.pulse = some { level := v, endTick := e } →
      ∃ l' : Line, l.request l.owner .toggle t = .taken l' ∧ l'.level ≠ v ∧ l'.pulse = none ∧ l'.collisions = l.collisions) ∧
    (∃ l' l'' : Line, l.request l.owner .toggle t = .taken l' ∧ l'.request l'.owner .toggle t = .taken l'' ∧
      l'' = { l with pulse := none }) ∧
    ∀ (r : LineRequest) (l' : Line) (u : Tick), ((∃ v, r = .set v) ∨ r = .toggle) → l.request l.owner r t = .taken l' →
      l'.expire u = l'

/-- STROBE_EDGE (R100, R101, R102, R103 with q above 0): the present level follows the pin; a pending record is dropped as a glitch;
a selected edge starts a qualification with the positions of the masked axes. -/
def Obligations.StrobeEdgeStartsOrDropsQualification : Prop :=
  ∀ (s : State) (n : StrobeNo) (edge : Edge) (after : Level) (g : Nat),
    ((s.strobe n).level = .low ∧ edge = .rising ∧ after = .high ∨ (s.strobe n).level = .high ∧ edge = .falling ∧ after = .low) →
    g = (if (s.strobe n).record.isSome then min ((s.strobe n).glitches + 1) 65535 else (s.strobe n).glitches) →
    (¬((s.strobe n).config.edges = .both ∨ ((s.strobe n).config.edges = .rising ∧ edge = .rising) ∨
        ((s.strobe n).config.edges = .falling ∧ edge = .falling)) →
      exec (.strobeEdge n.val) s =
        .next (s.setStrobe n { s.strobe n with level := after, record := none, glitches := g })) ∧
    (((s.strobe n).config.edges = .both ∨ ((s.strobe n).config.edges = .rising ∧ edge = .rising) ∨
        ((s.strobe n).config.edges = .falling ∧ edge = .falling)) → 0 < (s.strobe n).config.qual →
      exec (.strobeEdge n.val) s =
        .next (s.setStrobe n
          { s.strobe n with
            level := after, glitches := g
            record := some
              { edge := edge, tick := s.tick, positions := s.positions (s.strobe n).config.mask
                endTick := s.tick + BitVec.ofNat 48 (10 * (s.strobe n).config.qual) } }))

/-- A strobe event, at STROBE_QUALIFICATION_EXPIRY or at a selected edge with q 0 (R101, R102, R103, R108, R109): the capture is stored
with GAP, or lost to a full queue, with the Capture Queue's report; then the group arm is requested, whatever became of the capture. With no pending
record, or at another tick than its end tick, there is no STROBE_QUALIFICATION_EXPIRY and nothing changes (log entry 1). -/
def Obligations.StrobeEventOffersCaptureAndArms : Prop :=
  (∀ (s : State) (n : StrobeNo), (∀ r ∈ (s.strobe n).record, r.endTick ≠ s.tick) →
    exec (.strobeQualificationExpiry n.val) s = .next s) ∧
  (∀ (s : State) (n : StrobeNo) (b : Strobe) (edge : Edge) (t : Tick) (positions : List Int) (i : Instr) (u : State),
    ((∃ r, (s.strobe n).record = some r ∧ r.endTick = s.tick ∧ r.edge = edge ∧ r.tick = t ∧ r.positions = positions ∧
        b = { s.strobe n with record := none } ∧ i = .strobeQualificationExpiry n.val) ∨
      ((s.strobe n).config.qual = 0 ∧ t = s.tick ∧
        ((s.strobe n).config.edges = .both ∨ ((s.strobe n).config.edges = .rising ∧ edge = .rising) ∨
          ((s.strobe n).config.edges = .falling ∧ edge = .falling)) ∧
        positions = s.positions (s.strobe n).config.mask ∧
        (∃ after : Level,
          ((s.strobe n).level = .low ∧ edge = .rising ∧ after = .high ∨ (s.strobe n).level = .high ∧ edge = .falling ∧ after = .low) ∧
          b = { s.strobe n with
            level := after, record := none
            glitches := if (s.strobe n).record.isSome then min ((s.strobe n).glitches + 1) 65535 else (s.strobe n).glitches }) ∧
        i = .strobeEdge n.val)) →
    u = { s.setStrobe n b with
      mks := { s.mks with groupArms := s.mks.groupArms ++ (s.strobe n).config.armGroup.toList } } →
    (s.cpq.records.length < 128 →
      exec i s = .next
        { u with
          cpq := { s.cpq with
            records := s.cpq.records ++
              [{ source := .strobe n edge, gap := s.cpq.gapPending, tick := t, mask := (s.strobe n).config.mask
                 positions := positions }]
            gapPending := false, waitingNotice := true }
          rpq := if s.cpq.waitingNotice then s.rpq
            else s.rpq.take (.capturesWaiting (s.cpq.records.length + 1) s.tick) s.tick }) ∧
    (128 ≤ s.cpq.records.length →
      exec i s = .next
        { u with
          cpq := { s.cpq with overrun := true, gapPending := true }
          rpq := if s.cpq.overrun then s.rpq else s.rpq.take (.captureOverrun t (.strobe n edge)) s.tick }))

/-- The taking of a report (R123, R125, R126): discarded when its kind is disabled; absorbed when the newest record is an unsent
OVERFLOW; appended while there are fewer than 63 records; else replaced by a new OVERFLOW record. RUN_STATE is never disabled. -/
def Obligations.ReportIsMaskedAbsorbedAppendedOrOverflows : Prop :=
  ∀ (q : ReportQueue) (r : Report) (t : Tick),
    (∀ st c u, r = .runState st c u → r.kind.enabled q.mask = true) ∧
    (r.kind.enabled q.mask = false → q.take r t = q) ∧
    (r.kind.enabled q.mask = true →
      (∀ older k kinds u born, q.records = older ++ [{ body := .overflow k kinds u, send := .unsent, created := born }] →
        q.take r t =
          { q with
            records := older ++
              [{ body := .overflow (min (k + 1) 65535) (kinds ||| BitVec.twoPow 16 r.kind.code) t, send := .unsent
                 created := born }] }) ∧
      (q.records.getLast?.any (·.freshOverflow) = false → q.records.length < 63 →
        q.take r t = { q with records := q.records ++ [{ body := r, send := .unsent, created := t }] }) ∧
      (q.records.getLast?.any (·.freshOverflow) = false → 63 ≤ q.records.length →
        q.take r t =
          { q with
            records := q.records ++
              [{ body := .overflow 1 (BitVec.twoPow 16 r.kind.code) t, send := .unsent, created := t }] }))

/-- An ACK in a lawful queue (R130, R131): with N = O + d within the span, exactly the d oldest records, all of them sent, are removed;
the retry count becomes 0 and the timer restarts or stops; d = 0 and an N outside the span change nothing. -/
def Obligations.AckRemovesTheAcknowledged : Prop :=
  ∀ (q : ReportQueue) (n : Byte) (p : LinkParams) (t : Tick) (d : Nat), q.lawful →
    d = (n - (q.nextSeq - BitVec.ofNat 8 q.sentCount)).toNat →
    (d = 0 ∨ q.sentCount < d → q.acknowledge n p t = q) ∧
    (1 ≤ d → d ≤ q.sentCount →
      (∀ r ∈ q.records.take d, r.send.sent = true) ∧ (q.acknowledge n p t).sentCount = q.sentCount - d ∧
      q.acknowledge n p t =
        { q with
          records := q.records.drop d, retries := 0
          ackTimer := if d < q.sentCount then some (t + BitVec.ofNat 48 (10000 * p.ack)) else none })

/-! ### Run Control and sessions -/

/-- A session loss, by SILENCE_TIMER_EXPIRY or by ACK_TIMEOUT_SIGNAL taken in OPEN with the exhausted flag set (R50, R116, R119, R157, R158), after
an arrival in progress has been taken to its end: LOST, the silence timer stopped, the beacon started, the acknowledgement timer stopped, HOLD with its
cause, every line at its safe level with no pulse, one RUN_STATE report. Otherwise the two events lose nothing and change nothing more than the
signal taken; with no signal raised ACK_TIMEOUT_SIGNAL changes nothing (log entry 1). -/
def Obligations.SessionLossEntersHold : Prop :=
  ∀ (s u : State) (cause : HoldCause) (lines : Vector Line 16) (lost : State),
    (∀ n : LineNo, lines[n.val] = { u.line n with level := (u.line n).safe, pulse := none }) →
    lost =
      { u with
        lines := lines, rnc := { state := .hold, cause := cause }
        cmi := { u.cmi with session := .lost, silenceTimer := none, beaconTimer := some (s.tick + 5000000) }
        rpq := ({ u.rpq with ackTimer := none } : ReportQueue).take (.runState .hold cause s.tick) s.tick } →
    (s.cmi.session = .opened → s.cmi.silenceTimer = some s.tick → u = s.settled → cause = .linkSilent →
      exec .silenceTimerExpiry s = .next lost) ∧
    (s.cmi.silenceTimer ≠ some s.tick ∨ s.cmi.session ≠ .opened → exec .silenceTimerExpiry s = .next s) ∧
    (∀ k, s.rpq.signals = k + 1 → s.cmi.session = .opened → s.rpq.exhausted = true →
      u = ({ s with rpq := { s.rpq with signals := k } } : State).settled → cause = .ackTimeout →
      exec .ackTimeoutSignal s = .next lost) ∧
    (∀ k, s.rpq.signals = k + 1 → (s.cmi.session ≠ .opened ∨ s.rpq.exhausted = false) →
      exec .ackTimeoutSignal s = .next { s with rpq := { s.rpq with signals := k } }) ∧
    (s.rpq.signals = 0 → exec .ackTimeoutSignal s = .next s)

/-- SYNC, taken in every session state (R135, R152): the seven changes as one event, every report record UNSENT and kept in order, and
nothing else changed. -/
def Obligations.SyncOpensSession : Prop :=
  ∀ (s : State) (e : Entry) (rest : List Entry), s.lrx.inbound = e :: rest → e.kind = .sync → s.ltx.slot = none →
    exec .sync s = .next
      { s with
        lrx := { s.lrx with inbound := rest }
        cmi := { s.cmi with
          epoch := if s.cmi.epoch = 255 then 1 else s.cmi.epoch + 1
          cache := none
          session := .opened
          silenceTimer :=
            if s.cmi.params.silence = 0 then none
            else some (s.tick + BitVec.ofNat 48 (10000 * s.cmi.params.silence))
          beaconTimer := none }
        rpq := { s.rpq with
          records := s.rpq.records.map fun r => { r with send := .unsent }
          nextSeq := 0, retries := 0, ackTimer := none, exhausted := false }
        ltx := { s.ltx with helloPending := true } }

/-- A COMMAND taken in NO_SESSION or LOST is answered with its status, whatever it is and whatever the cache holds, and is not executed
(R155). In LOST this covers DRIVE_LINE too, although two rules speak of a HOST line driven in HOLD after a session loss (R92, R98): that is the
model's reading, DEDUCED, log entry 23. Within one session a command with the sequence number of the command last executed is answered from the reply cache
and not executed again, whatever its code and payload (R156). -/
def Obligations.CommandsNotExecutedOrRepeated : Prop :=
  (∀ (s : State) (e : Entry) (rest : List Entry), s.commandReady e rest →
    (s.cmi.session = .noSession → exec e.row s = .next ((s.withInbound rest).placed e .noSession [])) ∧
    (s.cmi.session = .lost → exec e.row s = .next ((s.withInbound rest).placed e .sessionLost []))) ∧
  (∀ (s : State) (e : Entry) (rest : List Entry) (r : Reply), s.commandReady e rest → s.cmi.session = .opened →
    s.cmi.cache = some r → r.seq = e.seq →
    exec e.row s = .next { s.withInbound rest with ltx := { s.ltx with slot := some r } })

/-- Commands of a fixed length (Table 11-2) with a payload of any other length are answered BAD_LENGTH; a list command is answered so when
its count does not give its length; an empty payload is BAD_LENGTH with code 0 and an unknown code UNKNOWN_COMMAND; nothing else changes, and
the answer is cached (R156, R165). `u` is the state without the entry, and with an arrival in progress taken to its end where the command is one that
is taken before or after a whole arrival (R49). -/
def Obligations.CommandLengthsAreChecked : Prop :=
  ∀ (s : State) (e : Entry) (rest : List Entry) (u : State), s.executesOn e rest u →
    (∀ (code : Byte) (length : Nat) (operands : List Byte),
      (code.toNat, length) ∈
        [(0x02, 1), (0x03, 7), (0x04, 1), (0x05, 2), (0x06, 3), (0x07, 1), (0x08, 1), (0x09, 1), (0x10, 23), (0x11, 6),
          (0x12, 3), (0x13, 2), (0x14, 6), (0x21, 2), (0x24, 2), (0x25, 2), (0x26, 7), (0x27, 2), (0x28, 3), (0x30, 5),
          (0x31, 8), (0x32, 2), (0x40, 7), (0x41, 2), (0x42, 2), (0x43, 2), (0x44, 1)] →
      e.payload = code :: operands → e.payload.length ≠ length →
      exec e.row s = .next (u.answered e .badLength [])) ∧
    (∀ (code count : Byte) (ids : List Byte), code = 0x22 ∨ code = 0x23 → e.payload = code :: count :: ids →
      e.payload.length ≠ 2 + count.toNat → exec e.row s = .next (u.answered e .badLength [])) ∧
    (∀ code : Byte, code = 0x22 ∨ code = 0x23 → e.payload = [code] →
      exec e.row s = .next (u.answered e .badLength [])) ∧
    (∀ operands : List Byte, e.payload = 0x20 :: operands →
      e.payload.length ≠ 20 + 7 * (operands.getD 18 0).toNat →
      exec .defineMark s = .next (u.answered e .badLength [])) ∧
    (∀ data : List Byte, e.payload = 0x01 :: data → 238 < data.length →
      exec .ping s = .next (u.answered e .badLength [])) ∧
    (e.payload = [] → exec .unknownCommand s = .next (u.answered e .badLength []) ∧
      replyPayload e.payload .badLength [] = [0x00, 0x02]) ∧
    (∀ (code : Byte) (operands : List Byte), e.payload = code :: operands → commandOf code = none →
      exec .unknownCommand s = .next (u.answered e .unknownCommand []) ∧
      replyPayload e.payload .unknownCommand [] = [code, 0x01])

/-- The commands that change no state but the link's own answer (R159, R161, R48, R32): PING, GET_INFO, GET_STATUS, READ_MARK and
LIST_MARKS, with the data they carry; LIST_MARKS of no axis is BAD_ARGUMENT. The last three read `u` with an arrival in progress
taken to its end (R49; for GET_STATUS log entry 26). -/
def Obligations.ReadingCommandsAnswer : Prop :=
  ∀ (s : State) (e : Entry) (rest : List Entry) (u : State), s.executesOn e rest u →
    (∀ data : List Byte, e.payload = 0x01 :: data → data.length ≤ 238 →
      exec .ping s = .next (u.answered e .ok data)) ∧
    (e.payload = [0x02] →
      exec .getInfo s = .next (u.answered e .ok
        ([0x21, 0x16, 0x08, 8, 0, 1, 16, 16, 8, 128, 64, 4, 8] ++ put8 u.lrx.rate.code ++ put8 u.cmi.resetCause.code))) ∧
    (e.payload = [0x04] → ∃ faults : Byte,
      (∀ a : Axis, faults.getLsbD a.val = ((u.axis a).phaseFlag || (u.axis a).limitFlag)) ∧
      exec .getStatus s = .next (u.answered e .ok
        (put8 u.rnc.state.code ++ put8 u.rnc.cause.code ++ [u.cmi.epoch] ++ putTick u.tick ++ put8 u.cpq.records.length
          ++ put8 u.rpq.records.length ++ put8 (u.rpq.records.filter (·.send.sent)).length
          ++ put16 (u.mks.marks.filter fun m => decide (m.state = .armed ∨ m.state = .rearming)).length ++ [faults]))) ∧
    (∀ id : Byte, e.payload = [0x27, id] →
      exec .readMark s = .next (u.answered e .ok (putMark (markOf id) (u.mark (markOf id))))) ∧
    (∀ n start : Byte, e.payload = [0x28, n, start] → 8 ≤ n.toNat →
      exec .listMarks s = .next (u.answered e .badArgument [])) ∧
    (∀ (n start : Byte) (a : Axis), e.payload = [0x28, n, start] → n.toNat = a.val →
      exec .listMarks s = .next (u.answered e .ok
        ([n] ++ put16 (u.axisMarks a).length ++ [start]
          ++ put8 (min 38 ((u.axisMarks a).length - start.toNat))
          ++ (((u.axisMarks a).drop start.toNat).take 38).flatMap fun m =>
              put8 m.id.val ++ putPos m.target ++ put8 m.state.code)))

/-- SET_LINK, GET_LINK_STATS, MASK_REPORTS and RESET_PART (R123, R146, R160, R162, R163): their answers, their changes and their refusals.
SET_LINK in range replaces the four link parameters, gives the silence timer the new timeout at once and answers the old values. GET_LINK_STATS
answers the counters and with YES clears them. MASK_REPORTS replaces the enables of the maskable kinds and answers the old mask. RESET_PART makes a
command reset due. -/
def Obligations.LinkServiceCommands : Prop :=
  (∀ (s : State) (e : Entry) (rest : List Entry) (s0 s1 a0 a1 retry window : Byte), s.executes e rest →
    e.payload = [0x03, s0, s1, a0, a1, retry, window] →
    ((le16 s0 s1 = 0 ∨ 20 ≤ le16 s0 s1 ∧ le16 s0 s1 ≤ 60000) ∧ (2 ≤ le16 a0 a1 ∧ le16 a0 a1 ≤ 1000) ∧ retry.toNat ≤ 15 ∧
        (1 ≤ window.toNat ∧ window.toNat ≤ 8) →
      exec .setLink s = .next
        (({ s.withInbound rest with
            cmi := { s.cmi with
              params :=
                { silence := le16 s0 s1, ack := le16 a0 a1, retryLimit := retry.toNat, window := window.toNat }
              silenceTimer :=
                if le16 s0 s1 = 0 then none else some (s.tick + BitVec.ofNat 48 (10000 * le16 s0 s1)) } }).answered e .ok
          (put16 s.cmi.params.silence ++ put16 s.cmi.params.ack ++ put8 s.cmi.params.retryLimit
            ++ put8 s.cmi.params.window))) ∧
    (¬((le16 s0 s1 = 0 ∨ 20 ≤ le16 s0 s1 ∧ le16 s0 s1 ≤ 60000) ∧ (2 ≤ le16 a0 a1 ∧ le16 a0 a1 ≤ 1000) ∧
        retry.toNat ≤ 15 ∧ (1 ≤ window.toNat ∧ window.toNat ≤ 8)) →
      exec .setLink s = .next ((s.withInbound rest).answered e .badArgument []))) ∧
  (∀ (s : State) (e : Entry) (rest : List Entry), s.executes e rest →
    (∀ flag : Byte, e.payload = [0x05, flag] →
      (flag.toNat ≤ 1 →
        exec .getLinkStats s = .next
          (({ s.withInbound rest with
              lrx := { s.lrx with
                inbound := rest
                stats := if flag = 1 then .reset else s.lrx.stats } }).answered e .ok
            (put16 s.lrx.stats.gap ++ put16 s.lrx.stats.length ++ put16 s.lrx.stats.framing ++ put16 s.lrx.stats.crc
              ++ put16 s.lrx.stats.kind ++ put16 s.lrx.stats.overrun ++ put8 (discardCode s.lrx.stats.last)))) ∧
      (1 < flag.toNat → exec .getLinkStats s = .next ((s.withInbound rest).answered e .badArgument []))) ∧
    (∀ (k0 k1 : Byte) (kinds : BitVec 16), e.payload = [0x06, k0, k1] → kinds = k1 ++ k0 →
      ((∀ k : Nat, kinds.getLsbD k = true → 1 ≤ k ∧ k ≤ 9) →
        ∃ (mask : BitVec 7) (before : BitVec 16),
          (∀ k : ReportKind, k.enabled mask = (kinds.getLsbD k.code || decide (k = .runState ∨ k = .overflow))) ∧
          (∀ k : ReportKind, before.getLsbD k.code = k.enabled s.rpq.mask) ∧ (∀ k : Nat, k < 1 ∨ 9 < k → before.getLsbD k = false) ∧
          exec .maskReports s = .next
            (({ s.withInbound rest with rpq := { s.rpq with mask := mask } }).answered e .ok (putBits16 before))) ∧
      ((∃ k : Nat, kinds.getLsbD k = true ∧ (k < 1 ∨ 9 < k)) →
        exec .maskReports s = .next ((s.withInbound rest).answered e .badArgument []))) ∧
    (e.payload = [0x07] →
      exec .resetPart s = .next
        (({ s.withInbound rest with cmi := { s.cmi with resetDue := true } }).answered e .ok [])))

/-- RUN and HOLD (R65, R67, R116, R117, R118): in the state already held they change nothing; RUN in HOLD enters RUN with its report and the
catch-up of the marks in ascending id order; HOLD in RUN enters HOLD with cause HOST, the lines driven to their safe levels, and its report. The
command is executed on `u`: the state without its entry and with an arrival in progress taken to its end (R49). -/
def Obligations.RunAndHoldEnter : Prop :=
  ∀ (s : State) (e : Entry) (rest : List Entry) (u : State), s.executesOn e rest u →
    (e.payload = [0x08] → u.rnc.state = .run →
      exec .run s = .next (u.answered e .ok [1, 0, 0])) ∧
    (e.payload = [0x08] → u.rnc.state = .hold → u.marksLawful →
      ∃ advance : Mark → Option (Mark × Nat), (∀ m, advance m = m.catchUp (u.axis m.axis).config (u.axis m.axis).pos) ∧
        exec .run s = .next
          (({ u with
              rnc := { u.rnc with state := .run }
              mks := { u.mks with marks := u.mks.marks.map fun m : Mark => (Option.map Prod.fst (advance m)).getD m }
              rpq := (u.mks.marks.filterMap advance).foldl
                (fun (q : ReportQueue) (x : Mark × Nat) => q.take
                  (.markSkipped x.1.id x.1.axis (min x.2 4294967295) (decide (x.1.state = MarkState.spent)) x.1.target
                    x.1.kind.remaining u.tick) u.tick)
                (u.rpq.take (.runState .run .host u.tick) u.tick) }).answered e .ok
            ([0] ++ put16 (u.mks.marks.filterMap advance).length))) ∧
    (e.payload = [0x09] → u.rnc.state = .hold →
      exec .hold s = .next (u.answered e .ok [0, BitVec.ofNat 8 u.rnc.cause.code])) ∧
    (e.payload = [0x09] → u.rnc.state = .run →
      ∃ lines : Vector Line 16,
        (∀ n : LineNo, lines[n.val] = { u.line n with level := (u.line n).safe, pulse := none }) ∧
        exec .hold s = .next
          (({ u with
              rnc := { state := .hold, cause := .host }
              lines := lines
              rpq := u.rpq.take (.runState .hold .host u.tick) u.tick }).answered e .ok [1, 1]))

/-! ### Axis commands -/

/-- CONFIG_AXIS (R4, R22): the field checks are BAD_ARGUMENT; a REVS record needs a source that is ROTARY and not OFF and whose chain of
sources does not lead back to the axis; then a record that would break a REVS axis sourced from this one is IN_USE; then a mark ARMED or REARMING on the
axis is AXIS_BUSY; accepted, the unit takes the new record, reseeds its filters, clears its history and its position jumps to the initial
position. The command is executed on `u`: the state without its entry and with an arrival in progress
taken to its end (R49). The pins are as the last sample event read them (the model's choice, log entry 27). -/
def Obligations.ConfigAxisReplacesRecord : Prop :=
  ∀ (s : State) (e : Entry) (rest : List Entry) (u : State) (n : Byte) (a : Axis) (f : AxisFields) (m0 m1 m2 m3 fl d0 d1 x0 x1 x2 x3 p0 p1 p2
      p3 : Byte),
    s.executesOn e rest u →
    f.modulus = le32 m0 m1 m2 m3 → f.filter = fl.toNat → f.divisor = le16 d0 d1 → f.indexPreset = leInt x0 x1 x2 x3 →
    f.initial = leInt p0 p1 p2 p3 →
    e.payload = [0x10, n, f.mode, f.invert, f.kind, m0, m1, m2, m3, fl, d0, d1, f.source, f.indexMode, f.indexQual, x0, x1, x2,
      x3, p0, p1, p2, p3] →
    (8 ≤ n.toNat ∨ f.config = none → exec .configAxis s = .next (u.answered e .badArgument [])) ∧
    (∀ (c : AxisConfig) (fits breaks : Prop), n.toNat = a.val → f.config = some c →
      (fits ↔ (c.mode = .revs → (u.axis c.source).config.kind = .rotary ∧ (u.axis c.source).config.mode ≠ .off ∧
        ¬u.sourceChainMeets c.source a)) →
      (breaks ↔ (c.mode = .off ∨ c.kind ≠ .rotary) ∧ ∃ b : Axis, u.countsWrapsOf a b = true) →
      (¬fits → exec .configAxis s = .next (u.answered e .badArgument [])) ∧
      (fits → breaks → exec .configAxis s = .next (u.answered e .inUse [])) ∧
      (fits → ¬breaks → (∃ m ∈ u.mks.marks, m.axis = a ∧ m.active = true) →
        exec .configAxis s = .next (u.answered e .axisBusy [])) ∧
      (fits → ¬breaks → (∀ m ∈ u.mks.marks, m.axis = a → m.active = false) →
        exec .configAxis s = .next
          ((u.setAxis a
            { config := c, pos := c.initial, lastDir := none, lastStep := none, interval := none
              phaseFlag := false, limitFlag := false, phaseErrors := 0, latch := none, home := .notHomed
              a := { pin := (u.axis a).a.pin, filtered := (u.axis a).a.pin, runCount := 0 }
              b := { pin := (u.axis a).b.pin, filtered := (u.axis a).b.pin, runCount := 0 }
              z := { pin := (u.axis a).z.pin, filtered := (u.axis a).z.pin, runCount := 0 }
              refA := (u.axis a).a.pin, refB := (u.axis a).b.pin
              timeEnd := if c.mode = .timebase then some (u.tick + BitVec.ofNat 48 c.divisor) else none
              arrivals := (u.axis a).arrivals ++ [.jump c.initial u.tick] }).answered e .ok [])))

/-- The field checks of CONFIG_AXIS (R4 checks 2 to 4), field by field: which records are accepted, and that an accepted record holds every
field that applies as it was sent. A mode above 7 is refused. A field that does not apply holds its reset value (the model's choice, log entry 7). -/
def Obligations.AxisFieldsAreChecked : Prop :=
  (∀ f : AxisFields, 7 < f.mode.toNat → f.config = none) ∧
  ∀ (f : AxisFields) (mode : AxisMode), AxisMode.ofByte f.mode = some mode →
    ∀ (range : Int → Prop),
    (∀ v, range v ↔ (f.kind.toNat = 0 ∧ -2147483648 ≤ v ∧ v ≤ 2147483647) ∨ (f.kind.toNat = 1 ∧ 0 ≤ v ∧ v < f.modulus)) →
    (f.config.isSome = true ↔
      f.kind.toNat ≤ 1 ∧ (f.kind.toNat = 1 → 2 ≤ f.modulus ∧ f.modulus ≤ 16777216) ∧ range f.initial ∧
      (mode ≠ .off →
        f.invert.toNat ≤ 1 ∧ f.filter ≤ 15 ∧ (mode = .timebase → 1 ≤ f.divisor ∧ f.divisor ≤ 65535) ∧
        (mode = .revs → f.source.toNat < 8) ∧ f.indexMode.toNat ≤ 3 ∧ (1 ≤ f.indexQual.toNat ∧ f.indexQual.toNat ≤ 3) ∧
        (2 ≤ f.indexMode.toNat → range f.indexPreset))) ∧
    ∀ c : AxisConfig, f.config = some c →
      c.mode = mode ∧ (c.kind = .rotary ↔ f.kind.toNat = 1) ∧ c.initial = f.initial ∧
      (c.kind = .rotary → c.modulus = f.modulus) ∧
      (mode ≠ .off →
        (c.invert = true ↔ f.invert.toNat = 1) ∧ c.filter = f.filter ∧ IndexMode.ofByte f.indexMode = some c.indexMode ∧
        Qualifier.ofByte f.indexQual = some c.indexQual ∧ (2 ≤ f.indexMode.toNat → c.indexPreset = f.indexPreset)) ∧
      (mode = .timebase → c.divisor = f.divisor) ∧ (mode = .revs → c.source.val = f.source.toNat) ∧
      (c.kind = .linear → c.modulus = 2) ∧ (mode ≠ .timebase → c.divisor = 1) ∧ (mode ≠ .revs → c.source = 0) ∧
      (mode = .off ∨ f.indexMode.toNat < 2 → c.indexPreset = 0) ∧
      (mode = .off → c.invert = false ∧ c.filter = 0 ∧ c.indexMode = .ignore ∧ c.indexQual = .either)

/-- PRESET_AXIS and HOME_AXIS (R23, R26): refused with BAD_ARGUMENT for no such axis, an OFF axis or a value outside the range; accepted,
PRESET_AXIS jumps and clears the LIMIT flag and the last step, and HOME_AXIS arms the homing; everything else is kept. -/
def Obligations.PresetAndHomeAxis : Prop :=
  ∀ (s : State) (e : Entry) (rest : List Entry) (code n v0 v1 v2 v3 : Byte) (a : Axis) (v : Int), s.executes e rest →
    e.payload = [code, n, v0, v1, v2, v3] → v = leInt v0 v1 v2 v3 → code = 0x11 ∨ code = 0x14 →
    (8 ≤ n.toNat → exec e.row s = .next ((s.withInbound rest).answered e .badArgument [])) ∧
    (n.toNat = a.val → ((s.axis a).config.mode = .off ∨ (s.axis a).config.inRange v = false) →
      exec e.row s = .next ((s.withInbound rest).answered e .badArgument [])) ∧
    (n.toNat = a.val → (s.axis a).config.mode ≠ .off → (s.axis a).config.inRange v = true →
      (code = 0x11 →
        exec .presetAxis s = .next
          (((s.withInbound rest).setAxis a
            { s.axis a with
              pos := v, limitFlag := false, lastStep := none, interval := none
              arrivals := (s.axis a).arrivals ++ [.jump v s.tick] }).answered e .ok (putPos (s.axis a).pos))) ∧
      (code = 0x14 →
        exec .homeAxis s = .next
          (((s.withInbound rest).setAxis a
            { s.axis a with
              config := { (s.axis a).config with indexMode := .homeOnce, indexPreset := v }
              home := .homeArmed }).answered e .ok [])))

/-- READ_AXES and CLEAR_AXIS_FAULT (R24, R25): a mask of 0 and a flag other than NO or YES are BAD_ARGUMENT; the values are those before the
clearing; only the counts, or only the two flags, of the selected axes are cleared. -/
def Obligations.ReadAxesAndClearFault : Prop :=
  ∀ (s : State) (e : Entry) (rest : List Entry) (mask : Byte), s.executes e rest →
    (∀ flag : Byte, e.payload = [0x12, mask, flag] →
      (mask = 0 ∨ 1 < flag.toNat → exec .readAxes s = .next ((s.withInbound rest).answered e .badArgument [])) ∧
      (mask ≠ 0 → flag.toNat ≤ 1 → ∃ axes : Vector AxisUnit 8,
        (∀ a : Axis, axes[a.val] =
          if flag = 1 ∧ mask.getLsbD a.val = true then { s.axis a with phaseErrors := 0 } else s.axis a) ∧
        exec .readAxes s = .next
          (({ s.withInbound rest with axes := axes }).answered e .ok
            (putTick s.tick ++ (maskAxes mask).flatMap fun a => putAxis (s.axis a))))) ∧
    (e.payload = [0x13, mask] →
      (mask = 0 → exec .clearAxisFault s = .next ((s.withInbound rest).answered e .badArgument [])) ∧
      (mask ≠ 0 → ∃ (axes : Vector AxisUnit 8) (phase limit : Byte),
        (∀ a : Axis, axes[a.val] =
          if mask.getLsbD a.val = true then { s.axis a with phaseFlag := false, limitFlag := false } else s.axis a) ∧
        (∀ a : Axis, phase.getLsbD a.val = (mask.getLsbD a.val && (s.axis a).phaseFlag)) ∧
        (∀ a : Axis, limit.getLsbD a.val = (mask.getLsbD a.val && (s.axis a).limitFlag)) ∧
        exec .clearAxisFault s = .next (({ s.withInbound rest with axes := axes }).answered e .ok [phase, limit])))

/-! ### Mark commands -/

/-- DEFINE_MARK (R38, R39): invalid fields are BAD_ARGUMENT; an ARMED or REARMING mark is MARK_ACTIVE; else the whole record is replaced by a
DISARMED one with no history, and the previous state is answered. DELETE_MARK (R40): MARK_UNUSED, MARK_ACTIVE, or the record removed and its state
answered. The command is executed on `u`: the state without its entry and with an arrival in progress
taken to its end (R49). -/
def Obligations.DefineAndDeleteMark : Prop :=
  (∀ (s : State) (e : Entry) (rest : List Entry) (u : State) (id : Byte) (f : MarkFields) (b0 b1 b2 b3 h0 h1 s0 s1 s2 s3 c0 c1 count : Byte),
    s.executesOn e rest u →
    f.base = leInt b0 b1 b2 b3 → f.band = le16 h0 h1 → f.step = le32 s0 s1 s2 s3 → f.count = le16 c0 c1 →
    f.entryCount = count.toNat → f.entries.length = 7 * count.toNat →
    e.payload = [0x20, id, f.axis, f.kind, f.qual, b0, b1, b2, b3, f.group, f.report, h0, h1, s0, s1, s2, s3, c0, c1, count]
      ++ f.entries →
    (f.mark (markOf id) (fun a => (u.axis a).config) = none →
      exec .defineMark s = .next (u.answered e .badArgument [])) ∧
    (∀ m : Mark, f.mark (markOf id) (fun a => (u.axis a).config) = some m →
      m.id = markOf id ∧ m.state = .disarmed ∧ m.target = m.base ∧ m.fires = 0 ∧ m.lastFire = none ∧
      ((∃ old, u.mark (markOf id) = some old ∧ (old.state = .armed ∨ old.state = .rearming)) →
        exec .defineMark s = .next (u.answered e .markActive [])) ∧
      ((∀ old, u.mark (markOf id) = some old → old.state = .disarmed ∨ old.state = .spent) →
        exec .defineMark s = .next
          (({ u with mks := { u.mks with marks := putRecord m u.mks.marks } }).answered e .ok
            [(match (u.mark (markOf id)).map Mark.state with
              | none => 0
              | some MarkState.spent => 4
              | some _ => 1 : Byte)])))) ∧
  (∀ (s : State) (e : Entry) (rest : List Entry) (u : State) (id : Byte), s.executesOn e rest u → e.payload = [0x21, id] →
    (u.mark (markOf id) = none → exec .deleteMark s = .next (u.answered e .markUnused [])) ∧
    (∀ m, u.mark (markOf id) = some m → (m.state = .armed ∨ m.state = .rearming) →
      exec .deleteMark s = .next (u.answered e .markActive [])) ∧
    (∀ m, u.mark (markOf id) = some m → (m.state = .disarmed ∨ m.state = .spent) →
      exec .deleteMark s = .next
        (({ u with
            mks := { u.mks with marks := u.mks.marks.filter fun x => decide (x.id ≠ markOf id) } }).answered e .ok
          (put8 m.state.code))))

/-- The field checks of DEFINE_MARK (R38 checks 1 to 8, Table 2-3, R165), field by field: which records are accepted, and that an accepted record
holds every field that belongs to its kind as it was sent (R39, Table 11-2, Table 11-3). Entry `k` of the list is the seven bytes from 7·k on. -/
def Obligations.MarkFieldsAreChecked : Prop :=
  ∀ (f : MarkFields) (id : MarkId) (config : Axis → AxisConfig) (byte : Nat → Nat → Byte) (width : Nat → Nat),
    f.entries.length = 7 * f.entryCount → (∀ k j, byte k j = f.entries.getD (7 * k + j) 0) →
    (∀ k, width k = le32 (byte k 3) (byte k 4) (byte k 5) (byte k 6)) →
    ((f.mark id config).isSome = true ↔
      (∃ a : Axis, f.axis.toNat = a.val ∧
        ((config a).kind = .linear → -2147483648 ≤ f.base ∧ f.base ≤ 2147483647) ∧
        ((config a).kind = .rotary → 0 ≤ f.base ∧ f.base < (config a).modulus) ∧
        (f.kind = 1 ∨ (f.kind = 2 ∧ 1 ≤ f.band ∧ f.band ≤ 65535) ∨
          (f.kind = 3 ∧ f.qual ≠ 3 ∧ 1 ≤ f.step ∧ ((config a).kind = .linear → f.step ≤ 16777215) ∧
            ((config a).kind = .rotary → f.step + 1 ≤ (config a).modulus) ∧ f.count ≤ 65535))) ∧
      (1 ≤ f.qual.toNat ∧ f.qual.toNat ≤ 3) ∧ f.group.toNat < 16 ∧ f.report.toNat ≤ 1 ∧ f.entryCount ≤ 4 ∧
      ∀ k, k < f.entryCount →
        ((byte k 0 = 1 ∧ (byte k 1).toNat < 16 ∧ (byte k 2).toNat ≤ 1 ∧ 1 ≤ width k ∧ width k ≤ 1000000) ∨
          (byte k 0 = 2 ∧ (byte k 1).toNat < 16 ∧ (byte k 2).toNat ≤ 1) ∨ (byte k 0 = 3 ∧ (byte k 1).toNat < 16) ∨
          (byte k 0 = 4 ∧ byte k 1 ≠ 0) ∨ (byte k 0 = 5 ∧ (byte k 1).toNat < 8) ∨
          ((byte k 0 = 6 ∨ byte k 0 = 7) ∧ (byte k 1).toNat < 16))) ∧
    ∀ m : Mark, f.mark id config = some m →
      m.id = id ∧ m.axis.val = f.axis.toNat ∧ m.qual.code = f.qual.toNat ∧ m.base = f.base ∧ m.group.val = f.group.toNat ∧
      (m.report = true ↔ f.report = 1) ∧
      (f.kind = 1 → m.kind = .once) ∧ (f.kind = 2 → m.kind = .repeating f.band) ∧
      (f.kind = 3 → f.count = 0 → m.kind = .pitch f.step none none) ∧
      (f.kind = 3 → f.count ≠ 0 → m.kind = .pitch f.step (some f.count) (some f.count)) ∧
      m.actions.length = f.entryCount ∧
      ∀ (k : Nat) (x : Action), m.actions[k]? = some x →
        match x with
        | .pulse n v w => byte k 0 = 1 ∧ (byte k 1).toNat = n.val ∧ (byte k 2).toNat = Level.code v ∧ width k = w
        | .set n v => byte k 0 = 2 ∧ (byte k 1).toNat = n.val ∧ (byte k 2).toNat = Level.code v
        | .toggle n => byte k 0 = 3 ∧ (byte k 1).toNat = n.val
        | .snapshot mask => byte k 0 = 4 ∧ byte k 1 = mask
        | .preset b v => byte k 0 = 5 ∧ (byte k 1).toNat = b.val ∧ leInt (byte k 3) (byte k 4) (byte k 5) (byte k 6) = v
        | .armGroup g => byte k 0 = 6 ∧ (byte k 1).toNat = g.val
        | .disarmGroup g => byte k 0 = 7 ∧ (byte k 1).toNat = g.val

/-- ARM_MARKS and DISARM_MARKS (R33, R34, R36, R37, R41, R42): a count of 0 or above 32 is BAD_ARGUMENT; for a list of one id, the per-mark
result and the record it leaves; a longer list is its ids one after another. The command is executed on `u`: the state without its entry and with an
arrival in progress taken to its end (R49). The per-mark clauses hold inside an arrival too, where a mark on the arrival's axis reads the arrival's
position, or that of an earlier PRESET entry (R59, R82; log entry 25). -/
def Obligations.ArmAndDisarmMarks : Prop :=
  ∀ (s : State) (e : Entry) (rest : List Entry) (u : State) (code count : Byte) (ids : List Byte), s.executesOn e rest u →
    code = 0x22 ∨ code = 0x23 → e.payload = code :: count :: ids → ids.length = count.toNat →
    (count = 0 ∨ 32 < count.toNat → exec e.row s = .next (u.answered e .badArgument [])) ∧
    (1 ≤ count.toNat → count.toNat ≤ 32 → ∀ (op : State → MarkId → State × MarkResult),
      op = (if code = 0x22 then State.armMark else State.disarmMark) →
      exec e.row s = .next
        (((ids.map markOf).foldl (fun t id => (op t id).1) u).answered e .ok
          (count :: ((ids.map markOf).foldl (fun x id =>
            ((op x.1 id).1, x.2 ++ [BitVec.ofNat 8 (markStateCode ((x.1.mark id).map (·.state))),
              BitVec.ofNat 8 (op x.1 id).2.code])) (u, [])).2))) ∧
    (∀ (t : State) (id : MarkId) (m : Mark) (x : AxisUnit) (p : Int), t.mark id = some m → x = t.axis m.axis →
      ((∀ r ∈ t.mks.arrival, r.axis ≠ m.axis) → p = x.pos) → (∀ r ∈ t.mks.arrival, r.axis = m.axis → p = r.reads) →
      t.disarmMark id =
        (({ t with mks := { t.mks with
            marks := putRecord { m with state := .disarmed } t.mks.marks
            arrival := t.mks.arrival.map fun r => { r with disarmed := id :: r.disarmed } } } : State), .ok) ∧
      (m.active = true → t.armMark id = (t, .alreadyArmed)) ∧
      (m.active = false → x.config.kind = .rotary →
        (x.config.inRange m.base = false ∨ (∃ st c r, m.kind = .pitch st c r ∧ x.config.modulus ≤ st)) →
        t.armMark id = (t, .outOfRange)) ∧
      (m.active = false → m.kind = .once → (x.config.kind = .linear ∨ x.config.inRange m.base = true) →
        t.armMark id = (t.putMark { m with state := .armed, target := m.base }, .ok)) ∧
      (∀ h, m.active = false → m.kind = .repeating h → (x.config.kind = .linear ∨ x.config.inRange m.base = true) →
        t.armMark id =
          (t.putMark
            { m with state := if x.config.distance p m.base < h then .rearming else .armed, target := m.base }, .ok)) ∧
      (∀ st c r, m.active = false → m.kind = .pitch st c r → x.config.kind = .rotary → x.config.inRange m.base = true →
        st < x.config.modulus →
        t.armMark id = (t.putMark { m with state := .armed, target := m.base, kind := .pitch st c c }, .ok)) ∧
      (∀ st c r target, m.active = false → m.kind = .pitch st c r → x.config.kind = .linear →
        target = alignedTarget m.qual m.base st p →
        (-2147483648 ≤ target → target ≤ 2147483647 →
          t.armMark id = (t.putMark { m with state := .armed, target := target, kind := .pitch st c c }, .ok)) ∧
        (target < -2147483648 ∨ 2147483647 < target → t.armMark id = (t, .outOfRange)))) ∧
    ∀ (t : State) (id : MarkId), t.mark id = none →
      t.armMark id = (t, .markUnused) ∧ t.disarmMark id = (t, .markUnused)

/-- MOVE_MARK (R45, R46): its refusals in order, and the move: ONCE and REPEAT marks move base and target, a PITCH mark its target only; a REARMING
mark is band-checked at its new target; nothing fires and nothing is reported. The command is executed on `u`: the state without its entry and with
an arrival in progress taken to its end (R49). -/
def Obligations.MoveMarkShiftsTarget : Prop :=
  ∀ (s : State) (e : Entry) (rest : List Entry) (u : State) (id form v0 v1 v2 v3 : Byte) (v : Int), s.executesOn e rest u →
    e.payload = [0x26, id, form, v0, v1, v2, v3] → v = leInt v0 v1 v2 v3 →
    (1 < form.toNat → exec .moveMark s = .next (u.answered e .badArgument [])) ∧
    (form.toNat ≤ 1 → u.mark (markOf id) = none →
      exec .moveMark s = .next (u.answered e .markUnused [])) ∧
    (∀ (m : Mark) (x : AxisUnit), form.toNat ≤ 1 → u.mark (markOf id) = some m → x = u.axis m.axis →
      (m.state = .spent → exec .moveMark s = .next (u.answered e .markSpent [])) ∧
      (m.state ≠ .spent → x.config.kind = .rotary → form = 0 → (v < 0 ∨ x.config.modulus ≤ v) →
        exec .moveMark s = .next (u.answered e .badArgument [])) ∧
      (m.state ≠ .spent → x.config.kind = .linear → form = 1 →
        (m.target + v < -2147483648 ∨ 2147483647 < m.target + v) →
        exec .moveMark s = .next (u.answered e .badArgument [])) ∧
      (∀ (target : Int) (moved : Mark), m.state ≠ .spent →
        ((x.config.kind = .linear ∧ form = 0 ∧ target = v) ∨
          (x.config.kind = .linear ∧ form = 1 ∧ target = m.target + v ∧ -2147483648 ≤ target ∧ target ≤ 2147483647) ∨
          (x.config.kind = .rotary ∧ form = 0 ∧ target = v ∧ 0 ≤ v ∧ v < x.config.modulus) ∨
          (x.config.kind = .rotary ∧ form = 1 ∧ target = (m.target + v) % x.config.modulus)) →
        moved =
          { m with
            target := target
            base := (match m.kind with | .pitch _ _ _ => m.base | _ => target)
            state :=
              (match m.kind with
              | .repeating h => if m.state = .rearming ∧ h ≤ x.config.distance x.pos target then .armed else m.state
              | _ => m.state) } →
        exec .moveMark s = .next
          (({ u with mks := { u.mks with marks := putRecord moved u.mks.marks } }).answered e .ok
            (putPos m.target ++ putPos target ++ put8 moved.state.code))))

/-! ### Line, strobe and capture commands -/

/-- CONFIG_LINE (R93): a field outside its values is BAD_ARGUMENT; accepted, the line takes the new configuration, loses its pulse and goes to
the new safe level, its collision count kept, and what it held before is answered. READ_LINES (R96): the sixteen lines in order, the time remaining of a
pulse rounded up and between 1 and 1,000,000 for a pulse in its range, even at its end tick, where the value shown is free (log entry 5); YES clears
every collision count; any other flag is BAD_ARGUMENT. -/
def Obligations.ConfigLineAndReadLines : Prop :=
  (∀ (s : State) (e : Entry) (rest : List Entry) (n owner safe policy : Byte), s.executes e rest →
    e.payload = [0x30, n, owner, safe, policy] →
    (16 ≤ n.toNat ∨ 1 < owner.toNat ∨ 1 < safe.toNat ∨ 1 < policy.toNat →
      exec .configLine s = .next ((s.withInbound rest).answered e .badArgument [])) ∧
    (∀ l : LineNo, n.toNat = l.val → owner.toNat ≤ 1 → safe.toNat ≤ 1 → policy.toNat ≤ 1 →
      exec .configLine s = .next
        (((s.withInbound rest).setLine l
          { owner := if owner = 1 then .mark else .host
            safe := if safe = 1 then .high else .low
            policy := if policy = 1 then .restart else .refuse
            level := if safe = 1 then .high else .low
            pulse := none
            collisions := (s.line l).collisions }).answered e .ok
          (put8 (s.line l).owner.code ++ put8 (Level.code (s.line l).safe) ++ put8 (s.line l).policy.code
            ++ put8 (Level.code (s.line l).level) ++ [if (s.line l).pulse.isSome then 1 else 0])))) ∧
  (∀ (s : State) (e : Entry) (rest : List Entry) (flag : Byte), s.executes e rest → e.payload = [0x32, flag] →
    (1 < flag.toNat → exec .readLines s = .next ((s.withInbound rest).answered e .badArgument [])) ∧
    (flag.toNat ≤ 1 → ∃ (left : LineNo → Nat) (lines : Vector Line 16),
      (∀ n, (s.line n).pulse = none → left n = 0) ∧
      (∀ n, ∀ p ∈ (s.line n).pulse,
        (p.endTick ≠ s.tick → left n = ((p.endTick - s.tick).toNat + 9) / 10) ∧
        ((p.endTick - s.tick).toNat ≤ 10000000 → 1 ≤ left n ∧ left n ≤ 1000000)) ∧
      (∀ n : LineNo, lines[n.val] = if flag = 1 then { s.line n with collisions := 0 } else s.line n) ∧
      exec .readLines s = .next
        (({ s.withInbound rest with lines := lines, freeIndex := s.freeIndex + 1 }).answered e .ok
          (allLines.flatMap fun n =>
            put8 (s.line n).owner.code ++ put8 (Level.code (s.line n).safe) ++ put8 (s.line n).policy.code
              ++ put8 (Level.code (s.line n).level)
              ++ put8 (match (s.line n).pulse with | some p => Level.code p.level | none => 0)
              ++ put32 (left n) ++ put16 (s.line n).collisions))))

/-- DRIVE_LINE (R86 to R90, R94), on a HOST-owned line whether or not a CONFIG_LINE has named it since the last reset (the model's reading,
DEDUCED, log entry 24): bad operands, NOT_OWNER and LINE_BUSY, the last counted; SET and TOGGLE cancel a pulse; PULSE starts or restarts one with end tick 10·w later
and answers w. Close to a session loss by silence (R92): an executed DRIVE_LINE taken first is overridden by the drive of every line to its safe
level; where the HOLD entry is taken first, every line is at its safe level, and a DRIVE_LINE that stands behind a SYNC is executed on it in HOLD,
as the first part says. What becomes of a DRIVE_LINE before that SYNC another statement says (DEDUCED, log entry 23). -/
def Obligations.DriveLineActsOnHostLines : Prop :=
  (∀ (s : State) (e : Entry) (rest : List Entry) (n op level w0 w1 w2 w3 : Byte) (w : Nat) (v : Level), s.executes e rest →
    e.payload = [0x31, n, op, level, w0, w1, w2, w3] → w = le32 w0 w1 w2 w3 →
    (v = if level = 1 then .high else .low) →
    (16 ≤ n.toNat ∨ op = 0 ∨ 3 < op.toNat ∨ ((op = 1 ∨ op = 3) ∧ 1 < level.toNat) ∨ (op = 3 ∧ (w = 0 ∨ 1000000 < w)) →
      exec .driveLine s = .next ((s.withInbound rest).answered e .badArgument [])) ∧
    (∀ l : LineNo, n.toNat = l.val →
      (op = 1 ∧ level.toNat ≤ 1 ∨ op = 2 ∨ op = 3 ∧ level.toNat ≤ 1 ∧ 1 ≤ w ∧ w ≤ 1000000) →
      ((s.line l).owner = .mark → exec .driveLine s = .next ((s.withInbound rest).answered e .notOwner [])) ∧
      ((s.line l).owner = .host → op = 1 →
        exec .driveLine s = .next
          (((s.withInbound rest).setLine l { s.line l with level := v, pulse := none }).answered e .ok
            [BitVec.ofNat 8 (Level.code v), 0, 0, 0, 0])) ∧
      ((s.line l).owner = .host → op = 2 →
        exec .driveLine s = .next
          (((s.withInbound rest).setLine l { s.line l with level := (s.line l).level.flip, pulse := none }).answered e .ok
            [BitVec.ofNat 8 (Level.code (s.line l).level.flip), 0, 0, 0, 0])) ∧
      ((s.line l).owner = .host → op = 3 → ((s.line l).pulse = none ∨ (s.line l).policy = .restart) →
        exec .driveLine s = .next
          (((s.withInbound rest).setLine l
            { s.line l with
              level := v, pulse := some { level := v, endTick := s.tick + BitVec.ofNat 48 (10 * w) } }).answered e .ok
            (BitVec.ofNat 8 (Level.code v) :: put32 w))) ∧
      ((s.line l).owner = .host → op = 3 → (s.line l).pulse.isSome = true → (s.line l).policy = .refuse →
        exec .driveLine s = .next
          (((s.withInbound rest).setLine l
            { s.line l with collisions := min ((s.line l).collisions + 1) 65535 }).answered e .lineBusy [])))) ∧
  (∀ (s : State) (e : Entry) (rest : List Entry) (operands : List Byte), s.executes e rest → e.payload = 0x31 :: operands →
    s.cmi.silenceTimer = some s.tick →
    ∃ t, takeEach [.driveLine, .silenceTimerExpiry] s = .next t ∧ t.cmi.session = .lost ∧
      t.rnc = { state := .hold, cause := .linkSilent } ∧ ∀ l, (t.line l).level = (t.line l).safe ∧ (t.line l).pulse = none) ∧
  (∀ (s : State) (opener e : Entry) (rest : List Entry), s.cmi.session = .opened → s.cmi.silenceTimer = some s.tick →
    s.ltx.slot = none → s.lrx.inbound = opener :: e :: rest → opener.kind = .sync → e.kind = .command →
    ∃ t, takeEach [.silenceTimerExpiry, .sync] s = .next t ∧ t.executes e rest ∧
      t.rnc = { state := .hold, cause := .linkSilent } ∧
      ∀ l, t.line l = { s.settled.line l with level := (s.settled.line l).safe, pulse := none })

/-- CONFIG_STROBE and READ_STROBES (R105, R106): their refusals; the new configuration stored and a pending record dropped without a glitch;
the eight strobes read in order, YES clearing the glitch counts. -/
def Obligations.ConfigAndReadStrobes : Prop :=
  ∀ (s : State) (e : Entry) (rest : List Entry), s.executes e rest →
    (∀ (n edges q0 q1 mask group : Byte), e.payload = [0x40, n, edges, q0, q1, mask, group] →
      (8 ≤ n.toNat ∨ 3 < edges.toNat ∨ 1000 < le16 q0 q1 ∨ (16 ≤ group.toNat ∧ group ≠ 0xFF) →
        exec .configStrobe s = .next ((s.withInbound rest).answered e .badArgument [])) ∧
      (∀ (k : StrobeNo) (sel : EdgeSelect) (g : Option GroupNo), n.toNat = k.val → edges.toNat = sel.code → le16 q0 q1 ≤ 1000 →
        (g = none ∧ group = 0xFF ∨ ∃ x : GroupNo, g = some x ∧ group.toNat = x.val) →
        exec .configStrobe s = .next
          (((s.withInbound rest).setStrobe k
            { s.strobe k with
              config := { edges := sel, qual := le16 q0 q1, mask := mask, armGroup := g }, record := none }).answered e .ok
            (putStrobeConfig (s.strobe k).config ++ [if (s.strobe k).record.isSome then 1 else 0])))) ∧
    (∀ flag : Byte, e.payload = [0x41, flag] →
      (1 < flag.toNat → exec .readStrobes s = .next ((s.withInbound rest).answered e .badArgument [])) ∧
      (flag.toNat ≤ 1 → ∃ strobes : Vector Strobe 8,
        (∀ n : StrobeNo, strobes[n.val] = if flag = 1 then { s.strobe n with glitches := 0 } else s.strobe n) ∧
        exec .readStrobes s = .next
          (({ s.withInbound rest with strobes := strobes }).answered e .ok
            (allStrobes.flatMap fun n =>
              putStrobeConfig (s.strobe n).config ++ put8 (Level.code (s.strobe n).level)
                ++ [if (s.strobe n).record.isSome then 1 else 0] ++ put16 (s.strobe n).glitches))))

/-- CAPTURE_NOW (R108, R111): with room a HOST record of the masked positions is stored, with GAP from the gap-pending flag and
CAPTURES_WAITING if the waiting-notice flag was clear; on a full queue FULL, and no flag changes. READ_CAPTURES (R110, R112): n outside 1 to 32 is
BAD_ARGUMENT; else the longest run of the oldest records that is at most n long and fits 235 bytes is returned and removed; the overrun flag is
cleared, and the waiting-notice flag when the queue is left empty. -/
def Obligations.CaptureNowAndReadCaptures : Prop :=
  (∀ (s : State) (e : Entry) (rest : List Entry) (mask : Byte), s.executes e rest → e.payload = [0x42, mask] →
    (128 ≤ s.cpq.records.length → exec .captureNow s = .next ((s.withInbound rest).answered e .full [])) ∧
    (s.cpq.records.length < 128 →
      exec .captureNow s = .next
        (({ s.withInbound rest with
            cpq := { s.cpq with
              records := s.cpq.records ++
                [({ source := .host, gap := s.cpq.gapPending, tick := s.tick, mask := mask, positions := s.positions mask } : Capture)]
              gapPending := false, waitingNotice := true }
            rpq := if s.cpq.waitingNotice then s.rpq
              else s.rpq.take (.capturesWaiting (s.cpq.records.length + 1) s.tick) s.tick }).answered e .ok
          (putTick s.tick ++ put8 (s.cpq.records.length + 1))))) ∧
  (∀ (s : State) (e : Entry) (rest : List Entry) (n : Byte), s.executes e rest → e.payload = [0x43, n] →
    (n = 0 ∨ 32 < n.toNat → exec .readCaptures s = .next ((s.withInbound rest).answered e .badArgument [])) ∧
    (1 ≤ n.toNat → n.toNat ≤ 32 → ∃ k : Nat, k ≤ n.toNat ∧ k ≤ s.cpq.records.length ∧
      ((s.cpq.records.take k).map Capture.size).sum ≤ 235 ∧
      (k = n.toNat ∨ k = s.cpq.records.length ∨ 235 < ((s.cpq.records.take (k + 1)).map Capture.size).sum) ∧
      exec .readCaptures s = .next
        (({ s.withInbound rest with
            cpq := { s.cpq with
              records := s.cpq.records.drop k, overrun := false
              waitingNotice := s.cpq.waitingNotice && decide (k < s.cpq.records.length) } }).answered e .ok
          (put8 k ++ put8 (s.cpq.records.length - k) ++ [if s.cpq.overrun then 1 else 0]
            ++ (s.cpq.records.take k).flatMap putCapture))))

/-- FLUSH_CAPTURES (R113): every record is removed, the overrun and waiting-notice flags are cleared, the gap-pending flag is kept, and the
number discarded, 0 to 128, is answered; with an operand it is BAD_LENGTH. -/
def Obligations.FlushCapturesEmptiesQueue : Prop :=
  ∀ (s : State) (e : Entry) (rest : List Entry) (operands : List Byte), s.executes e rest → e.payload = 0x44 :: operands →
    s.capturesLawful →
    (operands ≠ [] → exec .flushCaptures s = .next ((s.withInbound rest).answered e .badLength [])) ∧
    (operands = [] → ∃ discarded : Byte, discarded.toNat = s.cpq.records.length ∧ discarded.toNat ≤ 128 ∧
      exec .flushCaptures s = .next
        (({ s.withInbound rest with
            cpq := { records := [], overrun := false, waitingNotice := false, gapPending := s.cpq.gapPending } }).answered e .ok
          [discarded]))

/-! ### The serial link -/

/-- Every multi-byte field is little-endian (R164): byte j of a field of two, four or six bytes is the value divided by 256 to the j, modulo
256; a position is sent as its two's complement; and what the part reads from the bytes it would send is the value itself. Then the records in these
fields, byte by byte (Table 11-3, Table 11-5 to Table 11-8, R166), the start of a REPLY (R154, 11.3), and the codes of the enumerations (Table 11-12). -/
def Obligations.FieldsAndRecordsAreLaidOut : Prop :=
  (∀ n : Nat, n < 65536 → ∃ b0 b1 : Byte, put16 n = [b0, b1] ∧ b0.toNat = n % 256 ∧ b1.toNat = n / 256 ∧ le16 b0 b1 = n) ∧
  (∀ n : Nat, n < 4294967296 → ∃ b0 b1 b2 b3 : Byte, put32 n = [b0, b1, b2, b3] ∧ b0.toNat = n % 256 ∧
    b1.toNat = n / 256 % 256 ∧ b2.toNat = n / 65536 % 256 ∧ b3.toNat = n / 16777216 ∧ le32 b0 b1 b2 b3 = n) ∧
  (∀ (p : Int) (n : Nat), -2147483648 ≤ p → p ≤ 2147483647 → (n : Int) = (if p < 0 then p + 4294967296 else p) →
    ∃ b0 b1 b2 b3 : Byte, putPos p = [b0, b1, b2, b3] ∧ b0.toNat = n % 256 ∧ b1.toNat = n / 256 % 256 ∧
      b2.toNat = n / 65536 % 256 ∧ b3.toNat = n / 16777216 ∧ leInt b0 b1 b2 b3 = p) ∧
  (∀ t : Tick, ∃ b0 b1 b2 b3 b4 b5 : Byte, putTick t = [b0, b1, b2, b3, b4, b5] ∧ b0.toNat = t.toNat % 256 ∧
    b1.toNat = t.toNat / 256 % 256 ∧ b2.toNat = t.toNat / 65536 % 256 ∧ b3.toNat = t.toNat / 16777216 % 256 ∧
    b4.toNat = t.toNat / 4294967296 % 256 ∧ b5.toNat = t.toNat / 1099511627776) ∧
  (∀ u : AxisUnit, ∃ flags : Byte, flags.toNat < 16 ∧ flags.getLsbD 0 = u.phaseFlag ∧ flags.getLsbD 1 = u.limitFlag ∧
    flags.getLsbD 2 = u.interval.isSome ∧ flags.getLsbD 3 = u.latch.isSome ∧
    putAxis u = putPos u.pos ++ [(match u.lastDir with | none => 0 | some .up => 1 | some .down => 2 : Byte), flags]
      ++ put32 (u.interval.getD 0) ++ put16 u.phaseErrors ++ [(match u.home with | .notHomed => 0 | .homeArmed => 1 | .homed => 2 : Byte)]
      ++ putPos ((u.latch.map (·.pos)).getD 0) ++ putTick ((u.latch.map (·.tick)).getD 0)) ∧
  (∀ (n : LineNo) (v : Level) (w : Nat) (mask : BitVec 8) (a : Axis) (x : Int) (g : GroupNo),
    putAction (.pulse n v w) = [1, BitVec.ofNat 8 n.val, BitVec.ofNat 8 (Level.code v)] ++ put32 w ∧
    putAction (.set n v) = [2, BitVec.ofNat 8 n.val, BitVec.ofNat 8 (Level.code v), 0, 0, 0, 0] ∧
    putAction (.toggle n) = [3, BitVec.ofNat 8 n.val, 0, 0, 0, 0, 0] ∧ putAction (.snapshot mask) = [4, mask, 0, 0, 0, 0, 0] ∧
    putAction (.preset a x) = [5, BitVec.ofNat 8 a.val, 0] ++ putPos x ∧
    putAction (.armGroup g) = [6, BitVec.ofNat 8 g.val, 0, 0, 0, 0, 0] ∧
    putAction (.disarmGroup g) = [7, BitVec.ofNat 8 g.val, 0, 0, 0, 0, 0]) ∧
  (∀ id : MarkId, putMark id none = BitVec.ofNat 8 id.val :: List.replicate 34 0) ∧
  (∀ (m : Mark) (id : MarkId) (kind : Byte) (band step : Nat) (base remaining : Option Nat),
    (m.kind = .once ∧ kind = 1 ∧ band = 0 ∧ step = 0 ∧ base = none ∧ remaining = none ∨
      m.kind = .repeating band ∧ kind = 2 ∧ step = 0 ∧ base = none ∧ remaining = none ∨
      m.kind = .pitch step base remaining ∧ kind = 3 ∧ band = 0) →
    ∃ presence : Byte, presence.toNat < 16 ∧ presence.getLsbD 0 = true ∧ presence.getLsbD 1 = base.isSome ∧
      presence.getLsbD 2 = remaining.isSome ∧ presence.getLsbD 3 = m.lastFire.isSome ∧
      putMark id (some m) = [BitVec.ofNat 8 id.val, BitVec.ofNat 8 m.state.code, presence, BitVec.ofNat 8 m.axis.val, kind,
          BitVec.ofNat 8 m.qual.code] ++ putPos m.base ++ putPos m.target
        ++ [BitVec.ofNat 8 m.group.val, if m.report then 1 else 0] ++ put16 band ++ put32 step ++ put16 (base.getD 0)
        ++ put16 (remaining.getD 0) ++ put16 m.fires ++ putTick (m.lastFire.getD 0) ++ [BitVec.ofNat 8 m.actions.length]
        ++ m.actions.flatMap putAction) ∧
  (∀ (c : Capture) (kind id flags : Byte),
    ((∃ n e, c.source = .strobe n e ∧ kind = 1 ∧ id = BitVec.ofNat 8 n.val ∧ flags.getLsbD 1 = true ∧
        flags.getLsbD 2 = decide (e = .falling)) ∨
      (∃ m, c.source = .mark m ∧ kind = 2 ∧ id = BitVec.ofNat 8 m.val ∧ flags.getLsbD 1 = false ∧ flags.getLsbD 2 = false) ∨
      (c.source = .host ∧ kind = 3 ∧ id = 0 ∧ flags.getLsbD 1 = false ∧ flags.getLsbD 2 = false)) →
    flags.toNat < 8 → flags.getLsbD 0 = c.gap →
    putCapture c = [kind, id, flags] ++ putTick c.tick ++ [c.mask] ++ c.positions.flatMap putPos) ∧
  (∀ (send : SendState) (born t : Tick) (m : MarkId) (a : Axis) (p q : Int) (d : Direction) (k n : Nat) (b : Bool) (left : Option Nat)
      (cause : SkipCause) (fault : FaultKind) (home : HomeState) (src : CaptureSource) (st : RunState) (h : HoldCause) (kinds : BitVec 16)
      (bytes : Report → List Byte),
    (∀ r, bytes r = reportPayload { body := r, send := send, created := born }) →
    bytes (.markFired m a p d t n q) = [1] ++ putTick born ++ [BitVec.ofNat 8 m.val, BitVec.ofNat 8 a.val] ++ putPos p
      ++ [BitVec.ofNat 8 (Direction.code d)] ++ putTick t ++ put16 n ++ putPos q ∧
    bytes (.markSkipped m a k b q left t) = [2] ++ putTick born ++ [BitVec.ofNat 8 m.val, BitVec.ofNat 8 a.val] ++ put32 k
      ++ [if b then 1 else 0] ++ putPos q ++ [if left.isSome then 1 else 0] ++ put16 (left.getD 0) ++ putTick t ∧
    bytes (.actionSkipped m n cause t) = [3] ++ putTick born ++ [BitVec.ofNat 8 m.val, BitVec.ofNat 8 n, BitVec.ofNat 8 cause.code]
      ++ putTick t ∧
    bytes (.axisFault a fault p t n) = [4] ++ putTick born ++ [BitVec.ofNat 8 a.val, BitVec.ofNat 8 fault.code] ++ putPos p
      ++ putTick t ++ put16 n ∧
    bytes (.indexSeen a p q t home) = [5] ++ putTick born ++ [BitVec.ofNat 8 a.val] ++ putPos p ++ putPos q ++ putTick t
      ++ [BitVec.ofNat 8 home.code] ∧
    bytes (.capturesWaiting n t) = [6] ++ putTick born ++ [BitVec.ofNat 8 n] ++ putTick t ∧
    bytes (.captureOverrun t src) = [7] ++ putTick born ++ putTick t
      ++ (match src with
        | .strobe x _ => [1, BitVec.ofNat 8 x.val]
        | .mark x => [2, BitVec.ofNat 8 x.val]
        | .host => [3, 0]) ∧
    bytes (.runState st h t) = [8] ++ putTick born ++ [BitVec.ofNat 8 st.code, BitVec.ofNat 8 h.code] ++ putTick t ∧
    ∃ k0 k1 : Byte, (k1 ++ k0 : BitVec 16) = kinds ∧
      bytes (.overflow n kinds t) = [9] ++ putTick born ++ put16 n ++ [k0, k1] ++ putTick t) ∧
  (∀ c : StrobeConfig, putStrobeConfig c = [BitVec.ofNat 8 c.edges.code] ++ put16 c.qual
    ++ [c.mask, match c.armGroup with | none => 0xFF | some g => BitVec.ofNat 8 g.val]) ∧
  (∀ (code : Byte) (operands data : List Byte) (st : Status),
    replyPayload (code :: operands) st data = [code, BitVec.ofNat 8 st.code] ++ data) ∧
  ([.ok, .unknownCommand, .badLength, .badArgument, .noSession, .sessionLost, .markActive, .markUnused, .markSpent, .axisBusy, .inUse,
      .notOwner, .lineBusy, .full].map Status.code = List.range 14 ∧
    [.low, .high].map Level.code = [0, 1] ∧ [.up, .down].map Direction.code = [1, 2] ∧ [.up, .down, .either].map Qualifier.code = [1, 2, 3] ∧
    [.notHomed, .homeArmed, .homed].map HomeState.code = [0, 1, 2] ∧ [.phase, .limit].map FaultKind.code = [1, 2] ∧
    [.disarmed, .armed, .rearming, .spent].map MarkState.code = [1, 2, 3, 4] ∧
    [.ok, .markUnused, .alreadyArmed, .outOfRange].map MarkResult.code = [0, 1, 2, 3] ∧
    [.lineNotMarkOwned, .lineBusy, .presetRange, .axisOff, .captureFull].map SkipCause.code = [1, 2, 3, 4, 5] ∧
    [.host, .mark].map Owner.code = [0, 1] ∧ [.refuse, .restart].map Policy.code = [0, 1] ∧
    [.none, .rising, .falling, .both].map EdgeSelect.code = [0, 1, 2, 3] ∧ [.hold, .run].map RunState.code = [0, 1] ∧
    [.reset, .host, .linkSilent, .ackTimeout].map HoldCause.code = [0, 1, 2, 3] ∧
    [.noSession, .opened, .lost].map Session.code = [0, 1, 2] ∧ [.hard, .command].map ResetCause.code = [0, 1] ∧
    [.bps115200, .bps1000000, .bps3000000, .bps6000000].map LinkRate.code = [0, 1, 2, 3] ∧
    [none, some .gap, some .length, some .framing, some .crc, some .kind, some .overrun].map discardCode = [0, 1, 2, 3, 4, 5, 6] ∧
    [.markFired, .markSkipped, .actionSkipped, .axisFault, .indexSeen, .capturesWaiting, .captureOverrun, .runState, .overflow].map
      ReportKind.code = [1, 2, 3, 4, 5, 6, 7, 8, 9] ∧
    [.reply, .report, .hello].map TxKind.code = [0x81, 0x82, 0x83]) ∧
  (∀ b : Byte,
    AxisMode.ofByte b = [.off, .quadX1, .quadX2, .quadX4, .stepDir, .upDown, .timebase, .revs][b.toNat]? ∧
    IndexMode.ofByte b = [.ignore, .latch, .homeOnce, .homeEvery][b.toNat]? ∧
    Qualifier.ofByte b = [none, some .up, some .down, some .either][b.toNat]?.join)

/-- The action entries and the defining fields of a mark record, in the codes and bytes that a record is sent with, read as the fields of a DEFINE_MARK,
give the same record, DISARMED and without history (R166, R39): no bit of them is dropped. -/
def Obligations.MarkRecordCanBeCopiedBack : Prop :=
  ∀ (m : Mark) (config : Axis → AxisConfig) (f : MarkFields),
    (config m.axis).inRange m.base = true → m.actions.length ≤ 4 →
    (∀ act ∈ m.actions, match act with
      | .pulse _ _ w => 1 ≤ w ∧ w ≤ 1000000
      | .snapshot mask => mask ≠ 0
      | .preset _ v => -2147483648 ≤ v ∧ v ≤ 2147483647
      | _ => True) →
    (match m.kind with
      | .once => True
      | .repeating h => 1 ≤ h ∧ h ≤ 65535
      | .pitch st base _ => m.qual ≠ .either ∧ 1 ≤ st ∧ st ≤ 16777215 ∧
        ((config m.axis).kind = .rotary → st + 1 ≤ (config m.axis).modulus) ∧ (∀ c ∈ base, 1 ≤ c ∧ c ≤ 65535)) →
    f = { axis := BitVec.ofNat 8 m.axis.val, kind := BitVec.ofNat 8 m.kind.code, qual := BitVec.ofNat 8 m.qual.code
          base := m.base, group := BitVec.ofNat 8 m.group.val, report := if m.report then 1 else 0
          band := m.kind.bandField, step := m.kind.stepField, count := m.kind.baseCount.getD 0
          entryCount := m.actions.length, entries := m.actions.flatMap putAction } →
    f.mark m.id config = some
      { m with
        state := .disarmed, target := m.base, fires := 0, lastFire := none
        kind := match m.kind with | .pitch st base _ => .pitch st base base | k => k }

/-- A frame delivered character by character to a receiver in HUNT, each character with or without its confirmed start bit (R140 to R144, R146,
R157). A COMMAND or SYNC with room in the inbound queue adds exactly its entry, with every byte as sent; an ACK reaches the Report Queue instead, which
takes it only while the session is OPEN (R129, R130); and each of the three restarts the silence timer, in OPEN with a timeout other than 0. A frame of a
kind the host may not send, a COMMAND or SYNC that meets a full inbound queue, and a frame with a damaged CRC are discarded once under their cause, and
nothing outside the Link Receiver changes. That a character may come without a confirmed start bit is the model's choice (log entry 11). -/
def Obligations.FramesAreReceivedWholeOrDropped : Prop :=
  ∀ (s : State) (kind seq : Byte) (payload : List Byte) (chars : List (Byte × Bool)) (accepted : State → State),
    s.lrx.line = .watching → s.lrx.state = .hunt → s.lrx.lawful → payload.length ≤ 240 →
    (∀ x : State, accepted x =
      if x.cmi.session = .opened ∧ x.cmi.params.silence ≠ 0 then
        { x with cmi := { x.cmi with silenceTimer := some (x.tick + BitVec.ofNat 48 (10000 * x.cmi.params.silence)) } }
      else x) →
    (chars.map Prod.fst = frameBytes kind seq payload →
      (∀ k : EntryKind, (kind = 0x01 ∧ k = .command ∨ kind = 0x03 ∧ k = .sync) →
        (s.lrx.inbound.length < 4 →
          deliver chars s = .next (accepted
            { s with
              lrx := { s.lrx with
                inbound := s.lrx.inbound ++ [({ kind := k, seq := seq, payload := payload } : Entry)] } })) ∧
        (s.lrx.inbound.length = 4 →
          deliver chars s = .next
            { s with lrx := { s.lrx with
              stats := { s.lrx.stats with overrun := min (s.lrx.stats.overrun + 1) 65535, last := some .overrun } } })) ∧
      (kind = 0x02 → s.cmi.session = .opened →
        deliver chars s = .next (accepted { s with rpq := s.rpq.acknowledge seq s.cmi.params s.tick })) ∧
      (kind = 0x02 → s.cmi.session ≠ .opened → deliver chars s = .next s) ∧
      (kind ≠ 0x01 → kind ≠ 0x02 → kind ≠ 0x03 →
        deliver chars s = .next
          { s with lrx := { s.lrx with
            stats := { s.lrx.stats with kind := min (s.lrx.stats.kind + 1) 65535, last := some .kind } } })) ∧
    (∀ c0 c1 : Byte, putBits16 (crcOf (kind :: seq :: BitVec.ofNat 8 payload.length :: payload)) ≠ [c0, c1] →
      chars.map Prod.fst = 0xC3 :: kind :: seq :: BitVec.ofNat 8 payload.length :: (payload ++ [c0, c1]) →
      deliver chars s = .next
        { s with lrx := { s.lrx with
          stats := { s.lrx.stats with crc := min (s.lrx.stats.crc + 1) 65535, last := some .crc } } })

/-- Single characters and timers of the receiver (R139, R141, R142, R143, Table 9-1). In HUNT everything but an unmarked start code is ignored;
every character of a frame goes to its field, enters the running CRC up to the CRC bytes, keeps its mark and restarts the gap timer; a length above
240 is a LENGTH discard; at its second CRC byte a marked frame is a FRAMING discard, and an unmarked one a CRC discard, a KIND discard, an OVERRUN
discard, or accepted: a COMMAND or SYNC joins the inbound queue, an ACK goes to the Report Queue, which takes it only in OPEN (R129, R130, R144),
and the silence timer is restarted in OPEN with a timeout other than 0 (R157); the gap timer discards with GAP once 200 bit times have passed (R138;
before that there is no expiry, log entries 1 and 10); a start bit stops the gap timer; RXD HIGH ends the wait after a framing error; while waiting
for HIGH no character is delivered (log entry 1), and one is also delivered without a confirmed start bit (log entry 11). -/
def Obligations.ReceiverEventsFollowTable : Prop :=
  ∀ (s : State) (value : Byte) (mark : Bool) (line : RxLine) (b : Assembly) (received : LinkReceiver → Result) (whole : LinkReceiver)
      (accepted : State → State) (w : BitVec 16),
    line = (if mark then .waitHigh else .watching) →
    b = { s.lrx.buffer with running := crcByte s.lrx.buffer.running value, mark := s.lrx.buffer.mark || mark } →
    (∀ r, received r = .next { s with lrx := r }) →
    whole = { s.lrx with line := .watching, state := .hunt, buffer := .empty, gapTimer := none } →
    (∀ x : State, accepted x =
      if x.cmi.session = .opened ∧ x.cmi.params.silence ≠ 0 then
        { x with cmi := { x.cmi with silenceTimer := some (x.tick + BitVec.ofNat 48 (10000 * x.cmi.params.silence)) } }
      else x) →
    w.toNat = s.lrx.buffer.received.toNat % 256 + 256 * value.toNat →
    (s.lrx.line = .waitHigh → exec (.characterReceived value mark) s = .next s) ∧
    (s.lrx.line ≠ .waitHigh →
      (s.lrx.state = .hunt → (value ≠ 0xC3 ∨ mark = true) →
        exec (.characterReceived value mark) s = received { s.lrx with line := line }) ∧
      (s.lrx.state = .hunt → value = 0xC3 → mark = false →
        exec (.characterReceived value mark) s =
          received { s.lrx with line := .watching, state := .header, buffer := .empty, gapTimer := some s.tick }) ∧
      (s.lrx.state = .header → s.lrx.buffer.headerCount = 0 →
        exec (.characterReceived value mark) s =
          received { s.lrx with line := line, buffer := { b with kind := value, headerCount := 1 }, gapTimer := some s.tick }) ∧
      (s.lrx.state = .header → s.lrx.buffer.headerCount = 1 →
        exec (.characterReceived value mark) s =
          received { s.lrx with line := line, buffer := { b with seq := value, headerCount := 2 }, gapTimer := some s.tick }) ∧
      (s.lrx.state = .header → s.lrx.buffer.headerCount = 2 → value.toNat ≤ 240 →
        exec (.characterReceived value mark) s =
          received
            { s.lrx with
              line := line, state := if value = 0 then .check else .payload
              buffer := { b with length := value, headerCount := 3 }, gapTimer := some s.tick }) ∧
      (s.lrx.state = .header → s.lrx.buffer.headerCount = 2 → 240 < value.toNat →
        exec (.characterReceived value mark) s =
          received
            { s.lrx with
              line := line, state := .hunt, buffer := .empty, gapTimer := none
              stats := { s.lrx.stats with length := min (s.lrx.stats.length + 1) 65535, last := some .length } }) ∧
      (s.lrx.state = .payload →
        exec (.characterReceived value mark) s =
          received
            { s.lrx with
              line := line
              state := if s.lrx.buffer.payload.length + 1 < s.lrx.buffer.length.toNat then .payload else .check
              buffer := { b with payload := s.lrx.buffer.payload ++ [value] }, gapTimer := some s.tick }) ∧
      (s.lrx.state = .check → s.lrx.buffer.crcCount = 0 → ∃ w : BitVec 16, w.toNat = value.toNat ∧
        exec (.characterReceived value mark) s =
          received
            { s.lrx with
              line := line
              buffer := { s.lrx.buffer with crcCount := 1, received := w, mark := s.lrx.buffer.mark || mark }
              gapTimer := some s.tick }) ∧
      (s.lrx.state = .check → s.lrx.buffer.crcCount = 1 → (s.lrx.buffer.mark || mark) = true →
        exec (.characterReceived value mark) s =
          received
            { s.lrx with
              line := line, state := .hunt, buffer := .empty, gapTimer := none
              stats := { s.lrx.stats with framing := min (s.lrx.stats.framing + 1) 65535, last := some .framing } }) ∧
      (s.lrx.state = .check → s.lrx.buffer.crcCount = 1 → s.lrx.buffer.mark = false → mark = false →
        (w ≠ s.lrx.buffer.running →
          exec (.characterReceived value mark) s = received
            { whole with stats := { s.lrx.stats with crc := min (s.lrx.stats.crc + 1) 65535, last := some .crc } }) ∧
        (w = s.lrx.buffer.running →
          (s.lrx.buffer.kind ≠ 0x01 → s.lrx.buffer.kind ≠ 0x02 → s.lrx.buffer.kind ≠ 0x03 →
            exec (.characterReceived value mark) s = received
              { whole with stats := { s.lrx.stats with kind := min (s.lrx.stats.kind + 1) 65535, last := some .kind } }) ∧
          (∀ k : EntryKind, (s.lrx.buffer.kind = 0x01 ∧ k = .command ∨ s.lrx.buffer.kind = 0x03 ∧ k = .sync) →
            (s.lrx.inbound.length < 4 →
              exec (.characterReceived value mark) s = .next (accepted
                { s with lrx := { whole with
                  inbound := s.lrx.inbound ++
                    [({ kind := k, seq := s.lrx.buffer.seq, payload := s.lrx.buffer.payload } : Entry)] } })) ∧
            (4 ≤ s.lrx.inbound.length →
              exec (.characterReceived value mark) s = received
                { whole with
                  stats := { s.lrx.stats with overrun := min (s.lrx.stats.overrun + 1) 65535, last := some .overrun } })) ∧
          (s.lrx.buffer.kind = 0x02 →
            (s.cmi.session = .opened →
              exec (.characterReceived value mark) s = .next (accepted
                { s with lrx := whole, rpq := s.rpq.acknowledge s.lrx.buffer.seq s.cmi.params s.tick })) ∧
            (s.cmi.session ≠ .opened → exec (.characterReceived value mark) s = received whole))))) ∧
    (∀ (g : Tick) (rate : Nat), s.lrx.gapTimer = some g → s.lrx.state ≠ .hunt →
      rate = [115200, 1000000, 3000000, 6000000].getD s.lrx.rate.code 0 →
      ((s.tick - g).toNat * rate < 200 * 10000000 → exec .gapTimerExpiry s = .next s) ∧
      (200 * 10000000 ≤ (s.tick - g).toNat * rate → exec .gapTimerExpiry s =
        received
          { s.lrx with
            state := .hunt, buffer := .empty, gapTimer := none
            stats := { s.lrx.stats with gap := min (s.lrx.stats.gap + 1) 65535, last := some .gap } })) ∧
    (s.lrx.gapTimer = none → exec .gapTimerExpiry s = .next s) ∧
    (s.lrx.line = .watching → exec .startBitConfirmed s = received { s.lrx with line := .inCharacter, gapTimer := none }) ∧
    (s.lrx.line = .waitHigh → exec .rxdReturnsHigh s = received { s.lrx with line := .watching })

/-- TX_TAKE_FRAME (R127, R128, R147, R148): the IDLE transmitter takes the reply, then a HELLO built from the present values, then the oldest
RESEND record with its own number, then within the window the oldest UNSENT record with the next number, starting the timer if none was sent; else it
stays IDLE. -/
def Obligations.TransmitterTakesInOrder : Prop :=
  ∀ s : State, s.ltx.sending = none →
    (∀ r, s.ltx.slot = some r →
      exec .txTakeFrame s = .next
        { s with ltx := { s.ltx with
          sending := some { frame := { kind := .reply, seq := r.seq, payload := r.payload }, sent := 0, started := s.tick } } }) ∧
    (s.ltx.slot = none → s.ltx.helloPending = true →
      exec .txTakeFrame s = .next
        { s with ltx := { s.ltx with
          helloPending := false
          sending := some
            { frame :=
                { kind := .hello, seq := 0
                  payload := [BitVec.ofNat 8 s.cmi.resetCause.code, s.cmi.epoch, BitVec.ofNat 8 s.cmi.session.code,
                    BitVec.ofNat 8 s.rnc.state.code, BitVec.ofNat 8 s.rnc.cause.code, 0x21, 0x16, 0x08, 8, 0, 1, 16, 16, 8,
                    128, 64, 4, 8] }
              sent := 0, started := s.tick } } }) ∧
    (s.ltx.slot = none → s.ltx.helloPending = false →
      (s.cmi.session ≠ .opened ∨ s.rpq.exhausted = true ∨ (∀ x ∈ s.rpq.records, ∃ k, x.send = .awaiting k) →
        exec .txTakeFrame s = .next s) ∧
      (s.cmi.session = .opened → s.rpq.exhausted = false → ∀ (older newer : List ReportRecord) (r : ReportRecord),
        s.rpq.records = older ++ r :: newer →
        (∀ n, r.send = .resend n → (∀ x ∈ older, ∃ k, x.send = .awaiting k) →
          exec .txTakeFrame s = .next
            { s with
              rpq := { s.rpq with records := older ++ { r with send := .awaiting n } :: newer }
              ltx := { s.ltx with
                sending := some
                  { frame := { kind := .report, seq := n, payload := reportPayload r }, sent := 0, started := s.tick } } }) ∧
        (r.send = .unsent → (∀ x ∈ older, ∃ k, x.send = .awaiting k) → (∀ x ∈ newer, x.send = .unsent) →
          (s.cmi.params.window ≤ older.length → exec .txTakeFrame s = .next s) ∧
          (older.length < s.cmi.params.window →
            exec .txTakeFrame s = .next
              { s with
                rpq := { s.rpq with
                  records := older ++ { r with send := .awaiting s.rpq.nextSeq } :: newer
                  nextSeq := s.rpq.nextSeq + 1
                  ackTimer :=
                    if older = [] then some (s.tick + BitVec.ofNat 48 (10000 * s.cmi.params.ack)) else s.rpq.ackTimer }
                ltx := { s.ltx with
                  sending := some
                    { frame := { kind := .report, seq := s.rpq.nextSeq, payload := reportPayload r }, sent := 0
                      started := s.tick } } }))))

/-! ### Rules of the whole part -/

/-- The part passes from HOLD to RUN only at a RUN command (R65, R121); a session is opened only by SYNC and leaves LOST only through SYNC, a
hard reset, or the TX_FRAME_DONE of a command reset that is due (Table 10-3, R163); and a REPORT frame is begun only while the session is OPEN (R129).
The owner, the safe level and the collision policy of a line change only at CONFIG_LINE and at the two resets (Table 5-1 note 1); a hard reset leaves
every line HOST-owned, and a request of a mark is refused on a HOST-owned line (R97, R86). -/
def Obligations.OnlyTheirCommandsOpenAndRun : Prop :=
  (∀ (i : Instr) (s t : State), exec i s = .next t → s.rnc.state = .hold → t.rnc.state = .run → i = .run) ∧
  (∀ (i : Instr) (s t : State), exec i s = .next t →
    (s.cmi.session ≠ .opened → t.cmi.session = .opened → i = .sync) ∧
    (s.cmi.session = .lost → t.cmi.session ≠ .lost → i = .sync ∨ (∃ p, i = .hardReset p) ∨
      ((∃ p, i = .txFrameDone p) ∧ s.cmi.resetDue = true))) ∧
  (∀ (i : Instr) (s t : State) (x : Sending), exec i s = .next t → t.ltx.sending = some x → x.frame.kind = .report →
    s.ltx.sending = some x ∨ s.cmi.session = .opened) ∧
  (∀ (i : Instr) (s t : State) (l : LineNo), exec i s = .next t →
    (((t.line l).owner, (t.line l).safe, (t.line l).policy) ≠ ((s.line l).owner, (s.line l).safe, (s.line l).policy) →
      i = .configLine ∨ (∃ p, i = .hardReset p) ∨ ((∃ p, i = .txFrameDone p) ∧ s.cmi.resetDue = true)) ∧
    ((∃ p, i = .hardReset p) → (t.line l).owner = .host)) ∧
  (∀ (line : Line) (request : LineRequest) (tick : Tick), line.owner = .host → line.request .mark request tick = .notOwner)

/-- No mark fires while the run state is HOLD, and a mark fires only at a step arrival on its own axis that lands on its target in RUN, at which it is ARMED
(R50, R53, R64): whenever a mark's fire count or last fire tick changes, then DEFINE_MARK has replaced the record; or the event is the taking of that
arrival, after any other in progress has been taken to its end; or that arrival is in progress, and the mark is one whose turn has not begun, not
disarmed since. -/
def Obligations.MarksFireOnlyAtStepArrivalsInRun : Prop :=
  ∀ (i : Instr) (s t : State) (m n : Mark), exec i s = .next t → s.axesLawful → s.marksLawful → s.arrivalLawful →
    s.mark m.id = some m → t.mark m.id = some n → (n.fires ≠ m.fires ∨ n.lastFire ≠ m.lastFire) →
    (i = .defineMark ∧ n.fires = 0 ∧ n.lastFire = none) ∨
    (i = .stepArrival m.axis.val ∧ s.rnc.state = .run ∧ (∀ r ∈ s.mks.arrival, r.axis ≠ m.axis) ∧
      ∃ (w : State) (x : Mark) (d : Direction) (u : Tick) (rest : List Arrival),
        w = ({ s with pauses := s.pauses.tail } : State).settled ∧ w.mark m.id = some x ∧ x.state = .armed ∧ x.axis = m.axis ∧
        (w.axis m.axis).arrivals = .step x.target d u :: rest ∧ n.lastFire = some u) ∨
    (s.rnc.state = .run ∧ m.state = .armed ∧ ∃ r ∈ s.mks.arrival, r.axis = m.axis ∧ m.id ∈ r.fireList ∧ m.id ∉ r.disarmed ∧
      ∃ (d : Direction) (u : Tick), r.arrival = .step m.target d u ∧ n.lastFire = some u)

/-- The remaining count of a PITCH mark never increases but to its base count (R28, R34, R36, R39): with no arrival in progress it rises only at an event
that can define or arm a mark (DEFINE_MARK, ARM_MARKS, ARM_GROUP, STROBE_GROUP_ARM, or a step arrival, whose action lists can arm groups), and the new count
is the base count; with one in progress, which any event that follows it may take to its end, the new count is at most the base count. -/
def Obligations.RemainingCountRisesOnlyToBaseCount : Prop :=
  ∀ (i : Instr) (s t : State) (m n : Mark) (a b : Nat), exec i s = .next t → s.axesLawful → s.marksLawful → s.arrivalLawful →
    s.mark m.id = some m → t.mark m.id = some n → m.kind.remaining = some a → n.kind.remaining = some b → a < b →
    (∃ base, n.kind.baseCount = some base ∧ b ≤ base) ∧
    (s.mks.arrival = none →
      n.kind.baseCount = some b ∧
        (i = .defineMark ∨ i = .armMarks ∨ i = .armGroup ∨ i = .strobeGroupArm ∨ ∃ x, i = .stepArrival x))

/-! ### Invariants -/

/-- The reset state meets every invariant below. -/
def Obligations.ResetMeetsInvariants : Prop :=
  State.reset.axesLawful ∧ State.reset.marksLawful ∧ State.reset.arrivalLawful ∧ State.reset.holdSafe ∧ State.reset.reportsLawful ∧
    State.reset.capturesLawful ∧ State.reset.sessionLawful ∧ State.reset.lrx.lawful ∧ State.reset.countersLawful

/-- Every step keeps every axis in its range (R14, R4), the mark table lawful (R27, R28, R29, R33), and the arrival in progress lawful (R49 to R53, R58,
R60, R64, R70): its run state, the marks still to fire, which are ARMED on its position unless disarmed since, and the running list, which is that of
the mark now firing. -/
def Obligations.StepKeepsAxesMarksAndArrivalLawful : Prop :=
  ∀ s t : State, s.axesLawful → s.marksLawful → s.arrivalLawful → step s = .next t →
    t.axesLawful ∧ t.marksLawful ∧ t.arrivalLawful

/-- Every step keeps this: while the run state is HOLD, every MARK-owned line is at its safe level with no pulse in flight (R92). The premise on the arrival
in progress is kept by every step too, as another statement says. -/
def Obligations.StepKeepsHoldSafe : Prop :=
  ∀ s t : State, s.arrivalLawful → s.holdSafe → step s = .next t → t.holdSafe

/-- Every step keeps the law of the Report Queue (R125, R127, R132). -/
def Obligations.StepKeepsReportsLawful : Prop := ∀ s t : State, s.reportsLawful → step s = .next t → t.reportsLawful

/-- Every step keeps the law of the Capture Queue and of the pending strobe records (R107, R108, R110), and keeps every counter the host reads
within 16 bits (00 "Counters"). -/
def Obligations.StepKeepsCapturesAndCounters : Prop :=
  (∀ s t : State, s.capturesLawful → step s = .next t → t.capturesLawful) ∧
  (∀ s t : State, s.countersLawful → step s = .next t → t.countersLawful)

/-- Every step keeps the law of the session, its timers and the reply slot (R150, R153, R157, R148, R163), and the law of the Link Receiver
(R141, R145). -/
def Obligations.StepKeepsSessionAndReceiver : Prop :=
  (∀ s t : State, s.sessionLawful → step s = .next t → t.sessionLawful) ∧
  (∀ s t : State, s.lrx.lawful → step s = .next t → t.lrx.lawful)
end

