-- ==== Sys2Proof/Laws/State.lean ====
section
/-! SUPPORT. One lemma per field per update of the state, and the units read after a unit is written. -/

namespace Sys2Proof.Machine

@[simp] theorem State.setPending_pending (s : State) (x : List Instr) : (s.setPending x).pending = x := rfl
@[simp] theorem State.setPending_pauses (s : State) (x : List Instr) : (s.setPending x).pauses = s.pauses := rfl
@[simp] theorem State.setPending_tick (s : State) (x : List Instr) : (s.setPending x).tick = s.tick := rfl
@[simp] theorem State.setPending_axes (s : State) (x : List Instr) : (s.setPending x).axes = s.axes := rfl
@[simp] theorem State.setPending_mks (s : State) (x : List Instr) : (s.setPending x).mks = s.mks := rfl
@[simp] theorem State.setPending_acu (s : State) (x : List Instr) : (s.setPending x).acu = s.acu := rfl
@[simp] theorem State.setPending_lines (s : State) (x : List Instr) : (s.setPending x).lines = s.lines := rfl
@[simp] theorem State.setPending_strobes (s : State) (x : List Instr) : (s.setPending x).strobes = s.strobes := rfl
@[simp] theorem State.setPending_cpq (s : State) (x : List Instr) : (s.setPending x).cpq = s.cpq := rfl
@[simp] theorem State.setPending_rpq (s : State) (x : List Instr) : (s.setPending x).rpq = s.rpq := rfl
@[simp] theorem State.setPending_rnc (s : State) (x : List Instr) : (s.setPending x).rnc = s.rnc := rfl
@[simp] theorem State.setPending_lrx (s : State) (x : List Instr) : (s.setPending x).lrx = s.lrx := rfl
@[simp] theorem State.setPending_ltx (s : State) (x : List Instr) : (s.setPending x).ltx = s.ltx := rfl
@[simp] theorem State.setPending_cmi (s : State) (x : List Instr) : (s.setPending x).cmi = s.cmi := rfl
@[simp] theorem State.setPending_freeIndex (s : State) (x : List Instr) : (s.setPending x).freeIndex = s.freeIndex := rfl

@[simp] theorem State.setPauses_pending (s : State) (x : List (Option Nat)) : (s.setPauses x).pending = s.pending := rfl
@[simp] theorem State.setPauses_pauses (s : State) (x : List (Option Nat)) : (s.setPauses x).pauses = x := rfl
@[simp] theorem State.setPauses_tick (s : State) (x : List (Option Nat)) : (s.setPauses x).tick = s.tick := rfl
@[simp] theorem State.setPauses_axes (s : State) (x : List (Option Nat)) : (s.setPauses x).axes = s.axes := rfl
@[simp] theorem State.setPauses_mks (s : State) (x : List (Option Nat)) : (s.setPauses x).mks = s.mks := rfl
@[simp] theorem State.setPauses_acu (s : State) (x : List (Option Nat)) : (s.setPauses x).acu = s.acu := rfl
@[simp] theorem State.setPauses_lines (s : State) (x : List (Option Nat)) : (s.setPauses x).lines = s.lines := rfl
@[simp] theorem State.setPauses_strobes (s : State) (x : List (Option Nat)) : (s.setPauses x).strobes = s.strobes := rfl
@[simp] theorem State.setPauses_cpq (s : State) (x : List (Option Nat)) : (s.setPauses x).cpq = s.cpq := rfl
@[simp] theorem State.setPauses_rpq (s : State) (x : List (Option Nat)) : (s.setPauses x).rpq = s.rpq := rfl
@[simp] theorem State.setPauses_rnc (s : State) (x : List (Option Nat)) : (s.setPauses x).rnc = s.rnc := rfl
@[simp] theorem State.setPauses_lrx (s : State) (x : List (Option Nat)) : (s.setPauses x).lrx = s.lrx := rfl
@[simp] theorem State.setPauses_ltx (s : State) (x : List (Option Nat)) : (s.setPauses x).ltx = s.ltx := rfl
@[simp] theorem State.setPauses_cmi (s : State) (x : List (Option Nat)) : (s.setPauses x).cmi = s.cmi := rfl
@[simp] theorem State.setPauses_freeIndex (s : State) (x : List (Option Nat)) : (s.setPauses x).freeIndex = s.freeIndex := rfl

@[simp] theorem State.setTick_pending (s : State) (x : Tick) : (s.setTick x).pending = s.pending := rfl
@[simp] theorem State.setTick_pauses (s : State) (x : Tick) : (s.setTick x).pauses = s.pauses := rfl
@[simp] theorem State.setTick_tick (s : State) (x : Tick) : (s.setTick x).tick = x := rfl
@[simp] theorem State.setTick_axes (s : State) (x : Tick) : (s.setTick x).axes = s.axes := rfl
@[simp] theorem State.setTick_mks (s : State) (x : Tick) : (s.setTick x).mks = s.mks := rfl
@[simp] theorem State.setTick_acu (s : State) (x : Tick) : (s.setTick x).acu = s.acu := rfl
@[simp] theorem State.setTick_lines (s : State) (x : Tick) : (s.setTick x).lines = s.lines := rfl
@[simp] theorem State.setTick_strobes (s : State) (x : Tick) : (s.setTick x).strobes = s.strobes := rfl
@[simp] theorem State.setTick_cpq (s : State) (x : Tick) : (s.setTick x).cpq = s.cpq := rfl
@[simp] theorem State.setTick_rpq (s : State) (x : Tick) : (s.setTick x).rpq = s.rpq := rfl
@[simp] theorem State.setTick_rnc (s : State) (x : Tick) : (s.setTick x).rnc = s.rnc := rfl
@[simp] theorem State.setTick_lrx (s : State) (x : Tick) : (s.setTick x).lrx = s.lrx := rfl
@[simp] theorem State.setTick_ltx (s : State) (x : Tick) : (s.setTick x).ltx = s.ltx := rfl
@[simp] theorem State.setTick_cmi (s : State) (x : Tick) : (s.setTick x).cmi = s.cmi := rfl
@[simp] theorem State.setTick_freeIndex (s : State) (x : Tick) : (s.setTick x).freeIndex = s.freeIndex := rfl

@[simp] theorem State.setAxes_pending (s : State) (x : Vector AxisUnit 8) : (s.setAxes x).pending = s.pending := rfl
@[simp] theorem State.setAxes_pauses (s : State) (x : Vector AxisUnit 8) : (s.setAxes x).pauses = s.pauses := rfl
@[simp] theorem State.setAxes_tick (s : State) (x : Vector AxisUnit 8) : (s.setAxes x).tick = s.tick := rfl
@[simp] theorem State.setAxes_axes (s : State) (x : Vector AxisUnit 8) : (s.setAxes x).axes = x := rfl
@[simp] theorem State.setAxes_mks (s : State) (x : Vector AxisUnit 8) : (s.setAxes x).mks = s.mks := rfl
@[simp] theorem State.setAxes_acu (s : State) (x : Vector AxisUnit 8) : (s.setAxes x).acu = s.acu := rfl
@[simp] theorem State.setAxes_lines (s : State) (x : Vector AxisUnit 8) : (s.setAxes x).lines = s.lines := rfl
@[simp] theorem State.setAxes_strobes (s : State) (x : Vector AxisUnit 8) : (s.setAxes x).strobes = s.strobes := rfl
@[simp] theorem State.setAxes_cpq (s : State) (x : Vector AxisUnit 8) : (s.setAxes x).cpq = s.cpq := rfl
@[simp] theorem State.setAxes_rpq (s : State) (x : Vector AxisUnit 8) : (s.setAxes x).rpq = s.rpq := rfl
@[simp] theorem State.setAxes_rnc (s : State) (x : Vector AxisUnit 8) : (s.setAxes x).rnc = s.rnc := rfl
@[simp] theorem State.setAxes_lrx (s : State) (x : Vector AxisUnit 8) : (s.setAxes x).lrx = s.lrx := rfl
@[simp] theorem State.setAxes_ltx (s : State) (x : Vector AxisUnit 8) : (s.setAxes x).ltx = s.ltx := rfl
@[simp] theorem State.setAxes_cmi (s : State) (x : Vector AxisUnit 8) : (s.setAxes x).cmi = s.cmi := rfl
@[simp] theorem State.setAxes_freeIndex (s : State) (x : Vector AxisUnit 8) : (s.setAxes x).freeIndex = s.freeIndex := rfl

@[simp] theorem State.setMks_pending (s : State) (x : MarkScheduler) : (s.setMks x).pending = s.pending := rfl
@[simp] theorem State.setMks_pauses (s : State) (x : MarkScheduler) : (s.setMks x).pauses = s.pauses := rfl
@[simp] theorem State.setMks_tick (s : State) (x : MarkScheduler) : (s.setMks x).tick = s.tick := rfl
@[simp] theorem State.setMks_axes (s : State) (x : MarkScheduler) : (s.setMks x).axes = s.axes := rfl
@[simp] theorem State.setMks_mks (s : State) (x : MarkScheduler) : (s.setMks x).mks = x := rfl
@[simp] theorem State.setMks_acu (s : State) (x : MarkScheduler) : (s.setMks x).acu = s.acu := rfl
@[simp] theorem State.setMks_lines (s : State) (x : MarkScheduler) : (s.setMks x).lines = s.lines := rfl
@[simp] theorem State.setMks_strobes (s : State) (x : MarkScheduler) : (s.setMks x).strobes = s.strobes := rfl
@[simp] theorem State.setMks_cpq (s : State) (x : MarkScheduler) : (s.setMks x).cpq = s.cpq := rfl
@[simp] theorem State.setMks_rpq (s : State) (x : MarkScheduler) : (s.setMks x).rpq = s.rpq := rfl
@[simp] theorem State.setMks_rnc (s : State) (x : MarkScheduler) : (s.setMks x).rnc = s.rnc := rfl
@[simp] theorem State.setMks_lrx (s : State) (x : MarkScheduler) : (s.setMks x).lrx = s.lrx := rfl
@[simp] theorem State.setMks_ltx (s : State) (x : MarkScheduler) : (s.setMks x).ltx = s.ltx := rfl
@[simp] theorem State.setMks_cmi (s : State) (x : MarkScheduler) : (s.setMks x).cmi = s.cmi := rfl
@[simp] theorem State.setMks_freeIndex (s : State) (x : MarkScheduler) : (s.setMks x).freeIndex = s.freeIndex := rfl

@[simp] theorem State.setAcu_pending (s : State) (x : Option ActionContext) : (s.setAcu x).pending = s.pending := rfl
@[simp] theorem State.setAcu_pauses (s : State) (x : Option ActionContext) : (s.setAcu x).pauses = s.pauses := rfl
@[simp] theorem State.setAcu_tick (s : State) (x : Option ActionContext) : (s.setAcu x).tick = s.tick := rfl
@[simp] theorem State.setAcu_axes (s : State) (x : Option ActionContext) : (s.setAcu x).axes = s.axes := rfl
@[simp] theorem State.setAcu_mks (s : State) (x : Option ActionContext) : (s.setAcu x).mks = s.mks := rfl
@[simp] theorem State.setAcu_acu (s : State) (x : Option ActionContext) : (s.setAcu x).acu = x := rfl
@[simp] theorem State.setAcu_lines (s : State) (x : Option ActionContext) : (s.setAcu x).lines = s.lines := rfl
@[simp] theorem State.setAcu_strobes (s : State) (x : Option ActionContext) : (s.setAcu x).strobes = s.strobes := rfl
@[simp] theorem State.setAcu_cpq (s : State) (x : Option ActionContext) : (s.setAcu x).cpq = s.cpq := rfl
@[simp] theorem State.setAcu_rpq (s : State) (x : Option ActionContext) : (s.setAcu x).rpq = s.rpq := rfl
@[simp] theorem State.setAcu_rnc (s : State) (x : Option ActionContext) : (s.setAcu x).rnc = s.rnc := rfl
@[simp] theorem State.setAcu_lrx (s : State) (x : Option ActionContext) : (s.setAcu x).lrx = s.lrx := rfl
@[simp] theorem State.setAcu_ltx (s : State) (x : Option ActionContext) : (s.setAcu x).ltx = s.ltx := rfl
@[simp] theorem State.setAcu_cmi (s : State) (x : Option ActionContext) : (s.setAcu x).cmi = s.cmi := rfl
@[simp] theorem State.setAcu_freeIndex (s : State) (x : Option ActionContext) : (s.setAcu x).freeIndex = s.freeIndex := rfl

@[simp] theorem State.setLines_pending (s : State) (x : Vector Line 16) : (s.setLines x).pending = s.pending := rfl
@[simp] theorem State.setLines_pauses (s : State) (x : Vector Line 16) : (s.setLines x).pauses = s.pauses := rfl
@[simp] theorem State.setLines_tick (s : State) (x : Vector Line 16) : (s.setLines x).tick = s.tick := rfl
@[simp] theorem State.setLines_axes (s : State) (x : Vector Line 16) : (s.setLines x).axes = s.axes := rfl
@[simp] theorem State.setLines_mks (s : State) (x : Vector Line 16) : (s.setLines x).mks = s.mks := rfl
@[simp] theorem State.setLines_acu (s : State) (x : Vector Line 16) : (s.setLines x).acu = s.acu := rfl
@[simp] theorem State.setLines_lines (s : State) (x : Vector Line 16) : (s.setLines x).lines = x := rfl
@[simp] theorem State.setLines_strobes (s : State) (x : Vector Line 16) : (s.setLines x).strobes = s.strobes := rfl
@[simp] theorem State.setLines_cpq (s : State) (x : Vector Line 16) : (s.setLines x).cpq = s.cpq := rfl
@[simp] theorem State.setLines_rpq (s : State) (x : Vector Line 16) : (s.setLines x).rpq = s.rpq := rfl
@[simp] theorem State.setLines_rnc (s : State) (x : Vector Line 16) : (s.setLines x).rnc = s.rnc := rfl
@[simp] theorem State.setLines_lrx (s : State) (x : Vector Line 16) : (s.setLines x).lrx = s.lrx := rfl
@[simp] theorem State.setLines_ltx (s : State) (x : Vector Line 16) : (s.setLines x).ltx = s.ltx := rfl
@[simp] theorem State.setLines_cmi (s : State) (x : Vector Line 16) : (s.setLines x).cmi = s.cmi := rfl
@[simp] theorem State.setLines_freeIndex (s : State) (x : Vector Line 16) : (s.setLines x).freeIndex = s.freeIndex := rfl

@[simp] theorem State.setStrobes_pending (s : State) (x : Vector Strobe 8) : (s.setStrobes x).pending = s.pending := rfl
@[simp] theorem State.setStrobes_pauses (s : State) (x : Vector Strobe 8) : (s.setStrobes x).pauses = s.pauses := rfl
@[simp] theorem State.setStrobes_tick (s : State) (x : Vector Strobe 8) : (s.setStrobes x).tick = s.tick := rfl
@[simp] theorem State.setStrobes_axes (s : State) (x : Vector Strobe 8) : (s.setStrobes x).axes = s.axes := rfl
@[simp] theorem State.setStrobes_mks (s : State) (x : Vector Strobe 8) : (s.setStrobes x).mks = s.mks := rfl
@[simp] theorem State.setStrobes_acu (s : State) (x : Vector Strobe 8) : (s.setStrobes x).acu = s.acu := rfl
@[simp] theorem State.setStrobes_lines (s : State) (x : Vector Strobe 8) : (s.setStrobes x).lines = s.lines := rfl
@[simp] theorem State.setStrobes_strobes (s : State) (x : Vector Strobe 8) : (s.setStrobes x).strobes = x := rfl
@[simp] theorem State.setStrobes_cpq (s : State) (x : Vector Strobe 8) : (s.setStrobes x).cpq = s.cpq := rfl
@[simp] theorem State.setStrobes_rpq (s : State) (x : Vector Strobe 8) : (s.setStrobes x).rpq = s.rpq := rfl
@[simp] theorem State.setStrobes_rnc (s : State) (x : Vector Strobe 8) : (s.setStrobes x).rnc = s.rnc := rfl
@[simp] theorem State.setStrobes_lrx (s : State) (x : Vector Strobe 8) : (s.setStrobes x).lrx = s.lrx := rfl
@[simp] theorem State.setStrobes_ltx (s : State) (x : Vector Strobe 8) : (s.setStrobes x).ltx = s.ltx := rfl
@[simp] theorem State.setStrobes_cmi (s : State) (x : Vector Strobe 8) : (s.setStrobes x).cmi = s.cmi := rfl
@[simp] theorem State.setStrobes_freeIndex (s : State) (x : Vector Strobe 8) : (s.setStrobes x).freeIndex = s.freeIndex := rfl

@[simp] theorem State.setCpq_pending (s : State) (x : CaptureQueue) : (s.setCpq x).pending = s.pending := rfl
@[simp] theorem State.setCpq_pauses (s : State) (x : CaptureQueue) : (s.setCpq x).pauses = s.pauses := rfl
@[simp] theorem State.setCpq_tick (s : State) (x : CaptureQueue) : (s.setCpq x).tick = s.tick := rfl
@[simp] theorem State.setCpq_axes (s : State) (x : CaptureQueue) : (s.setCpq x).axes = s.axes := rfl
@[simp] theorem State.setCpq_mks (s : State) (x : CaptureQueue) : (s.setCpq x).mks = s.mks := rfl
@[simp] theorem State.setCpq_acu (s : State) (x : CaptureQueue) : (s.setCpq x).acu = s.acu := rfl
@[simp] theorem State.setCpq_lines (s : State) (x : CaptureQueue) : (s.setCpq x).lines = s.lines := rfl
@[simp] theorem State.setCpq_strobes (s : State) (x : CaptureQueue) : (s.setCpq x).strobes = s.strobes := rfl
@[simp] theorem State.setCpq_cpq (s : State) (x : CaptureQueue) : (s.setCpq x).cpq = x := rfl
@[simp] theorem State.setCpq_rpq (s : State) (x : CaptureQueue) : (s.setCpq x).rpq = s.rpq := rfl
@[simp] theorem State.setCpq_rnc (s : State) (x : CaptureQueue) : (s.setCpq x).rnc = s.rnc := rfl
@[simp] theorem State.setCpq_lrx (s : State) (x : CaptureQueue) : (s.setCpq x).lrx = s.lrx := rfl
@[simp] theorem State.setCpq_ltx (s : State) (x : CaptureQueue) : (s.setCpq x).ltx = s.ltx := rfl
@[simp] theorem State.setCpq_cmi (s : State) (x : CaptureQueue) : (s.setCpq x).cmi = s.cmi := rfl
@[simp] theorem State.setCpq_freeIndex (s : State) (x : CaptureQueue) : (s.setCpq x).freeIndex = s.freeIndex := rfl

@[simp] theorem State.setRpq_pending (s : State) (x : ReportQueue) : (s.setRpq x).pending = s.pending := rfl
@[simp] theorem State.setRpq_pauses (s : State) (x : ReportQueue) : (s.setRpq x).pauses = s.pauses := rfl
@[simp] theorem State.setRpq_tick (s : State) (x : ReportQueue) : (s.setRpq x).tick = s.tick := rfl
@[simp] theorem State.setRpq_axes (s : State) (x : ReportQueue) : (s.setRpq x).axes = s.axes := rfl
@[simp] theorem State.setRpq_mks (s : State) (x : ReportQueue) : (s.setRpq x).mks = s.mks := rfl
@[simp] theorem State.setRpq_acu (s : State) (x : ReportQueue) : (s.setRpq x).acu = s.acu := rfl
@[simp] theorem State.setRpq_lines (s : State) (x : ReportQueue) : (s.setRpq x).lines = s.lines := rfl
@[simp] theorem State.setRpq_strobes (s : State) (x : ReportQueue) : (s.setRpq x).strobes = s.strobes := rfl
@[simp] theorem State.setRpq_cpq (s : State) (x : ReportQueue) : (s.setRpq x).cpq = s.cpq := rfl
@[simp] theorem State.setRpq_rpq (s : State) (x : ReportQueue) : (s.setRpq x).rpq = x := rfl
@[simp] theorem State.setRpq_rnc (s : State) (x : ReportQueue) : (s.setRpq x).rnc = s.rnc := rfl
@[simp] theorem State.setRpq_lrx (s : State) (x : ReportQueue) : (s.setRpq x).lrx = s.lrx := rfl
@[simp] theorem State.setRpq_ltx (s : State) (x : ReportQueue) : (s.setRpq x).ltx = s.ltx := rfl
@[simp] theorem State.setRpq_cmi (s : State) (x : ReportQueue) : (s.setRpq x).cmi = s.cmi := rfl
@[simp] theorem State.setRpq_freeIndex (s : State) (x : ReportQueue) : (s.setRpq x).freeIndex = s.freeIndex := rfl

@[simp] theorem State.setRnc_pending (s : State) (x : RunControl) : (s.setRnc x).pending = s.pending := rfl
@[simp] theorem State.setRnc_pauses (s : State) (x : RunControl) : (s.setRnc x).pauses = s.pauses := rfl
@[simp] theorem State.setRnc_tick (s : State) (x : RunControl) : (s.setRnc x).tick = s.tick := rfl
@[simp] theorem State.setRnc_axes (s : State) (x : RunControl) : (s.setRnc x).axes = s.axes := rfl
@[simp] theorem State.setRnc_mks (s : State) (x : RunControl) : (s.setRnc x).mks = s.mks := rfl
@[simp] theorem State.setRnc_acu (s : State) (x : RunControl) : (s.setRnc x).acu = s.acu := rfl
@[simp] theorem State.setRnc_lines (s : State) (x : RunControl) : (s.setRnc x).lines = s.lines := rfl
@[simp] theorem State.setRnc_strobes (s : State) (x : RunControl) : (s.setRnc x).strobes = s.strobes := rfl
@[simp] theorem State.setRnc_cpq (s : State) (x : RunControl) : (s.setRnc x).cpq = s.cpq := rfl
@[simp] theorem State.setRnc_rpq (s : State) (x : RunControl) : (s.setRnc x).rpq = s.rpq := rfl
@[simp] theorem State.setRnc_rnc (s : State) (x : RunControl) : (s.setRnc x).rnc = x := rfl
@[simp] theorem State.setRnc_lrx (s : State) (x : RunControl) : (s.setRnc x).lrx = s.lrx := rfl
@[simp] theorem State.setRnc_ltx (s : State) (x : RunControl) : (s.setRnc x).ltx = s.ltx := rfl
@[simp] theorem State.setRnc_cmi (s : State) (x : RunControl) : (s.setRnc x).cmi = s.cmi := rfl
@[simp] theorem State.setRnc_freeIndex (s : State) (x : RunControl) : (s.setRnc x).freeIndex = s.freeIndex := rfl

@[simp] theorem State.setLrx_pending (s : State) (x : LinkReceiver) : (s.setLrx x).pending = s.pending := rfl
@[simp] theorem State.setLrx_pauses (s : State) (x : LinkReceiver) : (s.setLrx x).pauses = s.pauses := rfl
@[simp] theorem State.setLrx_tick (s : State) (x : LinkReceiver) : (s.setLrx x).tick = s.tick := rfl
@[simp] theorem State.setLrx_axes (s : State) (x : LinkReceiver) : (s.setLrx x).axes = s.axes := rfl
@[simp] theorem State.setLrx_mks (s : State) (x : LinkReceiver) : (s.setLrx x).mks = s.mks := rfl
@[simp] theorem State.setLrx_acu (s : State) (x : LinkReceiver) : (s.setLrx x).acu = s.acu := rfl
@[simp] theorem State.setLrx_lines (s : State) (x : LinkReceiver) : (s.setLrx x).lines = s.lines := rfl
@[simp] theorem State.setLrx_strobes (s : State) (x : LinkReceiver) : (s.setLrx x).strobes = s.strobes := rfl
@[simp] theorem State.setLrx_cpq (s : State) (x : LinkReceiver) : (s.setLrx x).cpq = s.cpq := rfl
@[simp] theorem State.setLrx_rpq (s : State) (x : LinkReceiver) : (s.setLrx x).rpq = s.rpq := rfl
@[simp] theorem State.setLrx_rnc (s : State) (x : LinkReceiver) : (s.setLrx x).rnc = s.rnc := rfl
@[simp] theorem State.setLrx_lrx (s : State) (x : LinkReceiver) : (s.setLrx x).lrx = x := rfl
@[simp] theorem State.setLrx_ltx (s : State) (x : LinkReceiver) : (s.setLrx x).ltx = s.ltx := rfl
@[simp] theorem State.setLrx_cmi (s : State) (x : LinkReceiver) : (s.setLrx x).cmi = s.cmi := rfl
@[simp] theorem State.setLrx_freeIndex (s : State) (x : LinkReceiver) : (s.setLrx x).freeIndex = s.freeIndex := rfl

@[simp] theorem State.setLtx_pending (s : State) (x : LinkTransmitter) : (s.setLtx x).pending = s.pending := rfl
@[simp] theorem State.setLtx_pauses (s : State) (x : LinkTransmitter) : (s.setLtx x).pauses = s.pauses := rfl
@[simp] theorem State.setLtx_tick (s : State) (x : LinkTransmitter) : (s.setLtx x).tick = s.tick := rfl
@[simp] theorem State.setLtx_axes (s : State) (x : LinkTransmitter) : (s.setLtx x).axes = s.axes := rfl
@[simp] theorem State.setLtx_mks (s : State) (x : LinkTransmitter) : (s.setLtx x).mks = s.mks := rfl
@[simp] theorem State.setLtx_acu (s : State) (x : LinkTransmitter) : (s.setLtx x).acu = s.acu := rfl
@[simp] theorem State.setLtx_lines (s : State) (x : LinkTransmitter) : (s.setLtx x).lines = s.lines := rfl
@[simp] theorem State.setLtx_strobes (s : State) (x : LinkTransmitter) : (s.setLtx x).strobes = s.strobes := rfl
@[simp] theorem State.setLtx_cpq (s : State) (x : LinkTransmitter) : (s.setLtx x).cpq = s.cpq := rfl
@[simp] theorem State.setLtx_rpq (s : State) (x : LinkTransmitter) : (s.setLtx x).rpq = s.rpq := rfl
@[simp] theorem State.setLtx_rnc (s : State) (x : LinkTransmitter) : (s.setLtx x).rnc = s.rnc := rfl
@[simp] theorem State.setLtx_lrx (s : State) (x : LinkTransmitter) : (s.setLtx x).lrx = s.lrx := rfl
@[simp] theorem State.setLtx_ltx (s : State) (x : LinkTransmitter) : (s.setLtx x).ltx = x := rfl
@[simp] theorem State.setLtx_cmi (s : State) (x : LinkTransmitter) : (s.setLtx x).cmi = s.cmi := rfl
@[simp] theorem State.setLtx_freeIndex (s : State) (x : LinkTransmitter) : (s.setLtx x).freeIndex = s.freeIndex := rfl

@[simp] theorem State.setCmi_pending (s : State) (x : CommandInterpreter) : (s.setCmi x).pending = s.pending := rfl
@[simp] theorem State.setCmi_pauses (s : State) (x : CommandInterpreter) : (s.setCmi x).pauses = s.pauses := rfl
@[simp] theorem State.setCmi_tick (s : State) (x : CommandInterpreter) : (s.setCmi x).tick = s.tick := rfl
@[simp] theorem State.setCmi_axes (s : State) (x : CommandInterpreter) : (s.setCmi x).axes = s.axes := rfl
@[simp] theorem State.setCmi_mks (s : State) (x : CommandInterpreter) : (s.setCmi x).mks = s.mks := rfl
@[simp] theorem State.setCmi_acu (s : State) (x : CommandInterpreter) : (s.setCmi x).acu = s.acu := rfl
@[simp] theorem State.setCmi_lines (s : State) (x : CommandInterpreter) : (s.setCmi x).lines = s.lines := rfl
@[simp] theorem State.setCmi_strobes (s : State) (x : CommandInterpreter) : (s.setCmi x).strobes = s.strobes := rfl
@[simp] theorem State.setCmi_cpq (s : State) (x : CommandInterpreter) : (s.setCmi x).cpq = s.cpq := rfl
@[simp] theorem State.setCmi_rpq (s : State) (x : CommandInterpreter) : (s.setCmi x).rpq = s.rpq := rfl
@[simp] theorem State.setCmi_rnc (s : State) (x : CommandInterpreter) : (s.setCmi x).rnc = s.rnc := rfl
@[simp] theorem State.setCmi_lrx (s : State) (x : CommandInterpreter) : (s.setCmi x).lrx = s.lrx := rfl
@[simp] theorem State.setCmi_ltx (s : State) (x : CommandInterpreter) : (s.setCmi x).ltx = s.ltx := rfl
@[simp] theorem State.setCmi_cmi (s : State) (x : CommandInterpreter) : (s.setCmi x).cmi = x := rfl
@[simp] theorem State.setCmi_freeIndex (s : State) (x : CommandInterpreter) : (s.setCmi x).freeIndex = s.freeIndex := rfl

@[simp] theorem State.setFreeIndex_pending (s : State) (x : Nat) : (s.setFreeIndex x).pending = s.pending := rfl
@[simp] theorem State.setFreeIndex_pauses (s : State) (x : Nat) : (s.setFreeIndex x).pauses = s.pauses := rfl
@[simp] theorem State.setFreeIndex_tick (s : State) (x : Nat) : (s.setFreeIndex x).tick = s.tick := rfl
@[simp] theorem State.setFreeIndex_axes (s : State) (x : Nat) : (s.setFreeIndex x).axes = s.axes := rfl
@[simp] theorem State.setFreeIndex_mks (s : State) (x : Nat) : (s.setFreeIndex x).mks = s.mks := rfl
@[simp] theorem State.setFreeIndex_acu (s : State) (x : Nat) : (s.setFreeIndex x).acu = s.acu := rfl
@[simp] theorem State.setFreeIndex_lines (s : State) (x : Nat) : (s.setFreeIndex x).lines = s.lines := rfl
@[simp] theorem State.setFreeIndex_strobes (s : State) (x : Nat) : (s.setFreeIndex x).strobes = s.strobes := rfl
@[simp] theorem State.setFreeIndex_cpq (s : State) (x : Nat) : (s.setFreeIndex x).cpq = s.cpq := rfl
@[simp] theorem State.setFreeIndex_rpq (s : State) (x : Nat) : (s.setFreeIndex x).rpq = s.rpq := rfl
@[simp] theorem State.setFreeIndex_rnc (s : State) (x : Nat) : (s.setFreeIndex x).rnc = s.rnc := rfl
@[simp] theorem State.setFreeIndex_lrx (s : State) (x : Nat) : (s.setFreeIndex x).lrx = s.lrx := rfl
@[simp] theorem State.setFreeIndex_ltx (s : State) (x : Nat) : (s.setFreeIndex x).ltx = s.ltx := rfl
@[simp] theorem State.setFreeIndex_cmi (s : State) (x : Nat) : (s.setFreeIndex x).cmi = s.cmi := rfl
@[simp] theorem State.setFreeIndex_freeIndex (s : State) (x : Nat) : (s.setFreeIndex x).freeIndex = x := rfl

/-! ### Units by number -/

@[simp] theorem State.setPending_axis (s : State) (x : List Instr) (n : Axis) : (s.setPending x).axis n = s.axis n := rfl
@[simp] theorem State.setTick_axis (s : State) (x : Tick) (n : Axis) : (s.setTick x).axis n = s.axis n := rfl
@[simp] theorem State.setMks_axis (s : State) (x : MarkScheduler) (n : Axis) : (s.setMks x).axis n = s.axis n := rfl
@[simp] theorem State.setAcu_axis (s : State) (x : Option ActionContext) (n : Axis) : (s.setAcu x).axis n = s.axis n := rfl
@[simp] theorem State.setLines_axis (s : State) (x : Vector Line 16) (n : Axis) : (s.setLines x).axis n = s.axis n := rfl
@[simp] theorem State.setStrobes_axis (s : State) (x : Vector Strobe 8) (n : Axis) : (s.setStrobes x).axis n = s.axis n := rfl
@[simp] theorem State.setCpq_axis (s : State) (x : CaptureQueue) (n : Axis) : (s.setCpq x).axis n = s.axis n := rfl
@[simp] theorem State.setRpq_axis (s : State) (x : ReportQueue) (n : Axis) : (s.setRpq x).axis n = s.axis n := rfl
@[simp] theorem State.setRnc_axis (s : State) (x : RunControl) (n : Axis) : (s.setRnc x).axis n = s.axis n := rfl
@[simp] theorem State.setLrx_axis (s : State) (x : LinkReceiver) (n : Axis) : (s.setLrx x).axis n = s.axis n := rfl
@[simp] theorem State.setLtx_axis (s : State) (x : LinkTransmitter) (n : Axis) : (s.setLtx x).axis n = s.axis n := rfl
@[simp] theorem State.setCmi_axis (s : State) (x : CommandInterpreter) (n : Axis) : (s.setCmi x).axis n = s.axis n := rfl
@[simp] theorem State.setFreeIndex_axis (s : State) (x : Nat) (n : Axis) : (s.setFreeIndex x).axis n = s.axis n := rfl
@[simp] theorem State.setAxis_pending (s : State) (n : Axis) (u : AxisUnit) : (s.setAxis n u).pending = s.pending := rfl
@[simp] theorem State.setAxis_pauses (s : State) (n : Axis) (u : AxisUnit) : (s.setAxis n u).pauses = s.pauses := rfl
@[simp] theorem State.setAxis_tick (s : State) (n : Axis) (u : AxisUnit) : (s.setAxis n u).tick = s.tick := rfl
@[simp] theorem State.setAxis_mks (s : State) (n : Axis) (u : AxisUnit) : (s.setAxis n u).mks = s.mks := rfl
@[simp] theorem State.setAxis_acu (s : State) (n : Axis) (u : AxisUnit) : (s.setAxis n u).acu = s.acu := rfl
@[simp] theorem State.setAxis_lines (s : State) (n : Axis) (u : AxisUnit) : (s.setAxis n u).lines = s.lines := rfl
@[simp] theorem State.setAxis_strobes (s : State) (n : Axis) (u : AxisUnit) : (s.setAxis n u).strobes = s.strobes := rfl
@[simp] theorem State.setAxis_cpq (s : State) (n : Axis) (u : AxisUnit) : (s.setAxis n u).cpq = s.cpq := rfl
@[simp] theorem State.setAxis_rpq (s : State) (n : Axis) (u : AxisUnit) : (s.setAxis n u).rpq = s.rpq := rfl
@[simp] theorem State.setAxis_rnc (s : State) (n : Axis) (u : AxisUnit) : (s.setAxis n u).rnc = s.rnc := rfl
@[simp] theorem State.setAxis_lrx (s : State) (n : Axis) (u : AxisUnit) : (s.setAxis n u).lrx = s.lrx := rfl
@[simp] theorem State.setAxis_ltx (s : State) (n : Axis) (u : AxisUnit) : (s.setAxis n u).ltx = s.ltx := rfl
@[simp] theorem State.setAxis_cmi (s : State) (n : Axis) (u : AxisUnit) : (s.setAxis n u).cmi = s.cmi := rfl
@[simp] theorem State.setAxis_freeIndex (s : State) (n : Axis) (u : AxisUnit) : (s.setAxis n u).freeIndex = s.freeIndex := rfl
@[simp] theorem State.setAxis_line (s : State) (n : Axis) (u : AxisUnit) (m : LineNo) : (s.setAxis n u).line m = s.line m := rfl
@[simp] theorem State.setAxis_strobe (s : State) (n : Axis) (u : AxisUnit) (m : StrobeNo) : (s.setAxis n u).strobe m = s.strobe m := rfl

@[simp] theorem State.setAxis_same (s : State) (n : Axis) (u : AxisUnit) : (s.setAxis n u).axis n = u := by
  simp [State.setAxis, State.axis]

theorem State.setAxis_other (s : State) (n m : Axis) (u : AxisUnit) (h : m ≠ n) : (s.setAxis n u).axis m = s.axis m := by
  have hv : n.val ≠ m.val := fun e => h (Fin.ext e.symm)
  simp [State.setAxis, State.axis, hv]

theorem State.setAxis_axis (s : State) (n m : Axis) (u : AxisUnit) :
    (s.setAxis n u).axis m = if m = n then u else s.axis m := by
  split
  · next h => subst h; simp
  · next h => exact s.setAxis_other n m u h

@[simp] theorem State.setPending_line (s : State) (x : List Instr) (n : LineNo) : (s.setPending x).line n = s.line n := rfl
@[simp] theorem State.setTick_line (s : State) (x : Tick) (n : LineNo) : (s.setTick x).line n = s.line n := rfl
@[simp] theorem State.setAxes_line (s : State) (x : Vector AxisUnit 8) (n : LineNo) : (s.setAxes x).line n = s.line n := rfl
@[simp] theorem State.setMks_line (s : State) (x : MarkScheduler) (n : LineNo) : (s.setMks x).line n = s.line n := rfl
@[simp] theorem State.setAcu_line (s : State) (x : Option ActionContext) (n : LineNo) : (s.setAcu x).line n = s.line n := rfl
@[simp] theorem State.setStrobes_line (s : State) (x : Vector Strobe 8) (n : LineNo) : (s.setStrobes x).line n = s.line n := rfl
@[simp] theorem State.setCpq_line (s : State) (x : CaptureQueue) (n : LineNo) : (s.setCpq x).line n = s.line n := rfl
@[simp] theorem State.setRpq_line (s : State) (x : ReportQueue) (n : LineNo) : (s.setRpq x).line n = s.line n := rfl
@[simp] theorem State.setRnc_line (s : State) (x : RunControl) (n : LineNo) : (s.setRnc x).line n = s.line n := rfl
@[simp] theorem State.setLrx_line (s : State) (x : LinkReceiver) (n : LineNo) : (s.setLrx x).line n = s.line n := rfl
@[simp] theorem State.setLtx_line (s : State) (x : LinkTransmitter) (n : LineNo) : (s.setLtx x).line n = s.line n := rfl
@[simp] theorem State.setCmi_line (s : State) (x : CommandInterpreter) (n : LineNo) : (s.setCmi x).line n = s.line n := rfl
@[simp] theorem State.setFreeIndex_line (s : State) (x : Nat) (n : LineNo) : (s.setFreeIndex x).line n = s.line n := rfl
@[simp] theorem State.setLine_pending (s : State) (n : LineNo) (u : Line) : (s.setLine n u).pending = s.pending := rfl
@[simp] theorem State.setLine_pauses (s : State) (n : LineNo) (u : Line) : (s.setLine n u).pauses = s.pauses := rfl
@[simp] theorem State.setLine_tick (s : State) (n : LineNo) (u : Line) : (s.setLine n u).tick = s.tick := rfl
@[simp] theorem State.setLine_axes (s : State) (n : LineNo) (u : Line) : (s.setLine n u).axes = s.axes := rfl
@[simp] theorem State.setLine_mks (s : State) (n : LineNo) (u : Line) : (s.setLine n u).mks = s.mks := rfl
@[simp] theorem State.setLine_acu (s : State) (n : LineNo) (u : Line) : (s.setLine n u).acu = s.acu := rfl
@[simp] theorem State.setLine_strobes (s : State) (n : LineNo) (u : Line) : (s.setLine n u).strobes = s.strobes := rfl
@[simp] theorem State.setLine_cpq (s : State) (n : LineNo) (u : Line) : (s.setLine n u).cpq = s.cpq := rfl
@[simp] theorem State.setLine_rpq (s : State) (n : LineNo) (u : Line) : (s.setLine n u).rpq = s.rpq := rfl
@[simp] theorem State.setLine_rnc (s : State) (n : LineNo) (u : Line) : (s.setLine n u).rnc = s.rnc := rfl
@[simp] theorem State.setLine_lrx (s : State) (n : LineNo) (u : Line) : (s.setLine n u).lrx = s.lrx := rfl
@[simp] theorem State.setLine_ltx (s : State) (n : LineNo) (u : Line) : (s.setLine n u).ltx = s.ltx := rfl
@[simp] theorem State.setLine_cmi (s : State) (n : LineNo) (u : Line) : (s.setLine n u).cmi = s.cmi := rfl
@[simp] theorem State.setLine_freeIndex (s : State) (n : LineNo) (u : Line) : (s.setLine n u).freeIndex = s.freeIndex := rfl
@[simp] theorem State.setLine_axis (s : State) (n : LineNo) (u : Line) (m : Axis) : (s.setLine n u).axis m = s.axis m := rfl
@[simp] theorem State.setLine_strobe (s : State) (n : LineNo) (u : Line) (m : StrobeNo) : (s.setLine n u).strobe m = s.strobe m := rfl

@[simp] theorem State.setLine_same (s : State) (n : LineNo) (u : Line) : (s.setLine n u).line n = u := by
  simp [State.setLine, State.line]

theorem State.setLine_other (s : State) (n m : LineNo) (u : Line) (h : m ≠ n) : (s.setLine n u).line m = s.line m := by
  have hv : n.val ≠ m.val := fun e => h (Fin.ext e.symm)
  simp [State.setLine, State.line, hv]

theorem State.setLine_line (s : State) (n m : LineNo) (u : Line) :
    (s.setLine n u).line m = if m = n then u else s.line m := by
  split
  · next h => subst h; simp
  · next h => exact s.setLine_other n m u h

@[simp] theorem State.setPending_strobe (s : State) (x : List Instr) (n : StrobeNo) : (s.setPending x).strobe n = s.strobe n := rfl
@[simp] theorem State.setTick_strobe (s : State) (x : Tick) (n : StrobeNo) : (s.setTick x).strobe n = s.strobe n := rfl
@[simp] theorem State.setAxes_strobe (s : State) (x : Vector AxisUnit 8) (n : StrobeNo) : (s.setAxes x).strobe n = s.strobe n := rfl
@[simp] theorem State.setMks_strobe (s : State) (x : MarkScheduler) (n : StrobeNo) : (s.setMks x).strobe n = s.strobe n := rfl
@[simp] theorem State.setAcu_strobe (s : State) (x : Option ActionContext) (n : StrobeNo) : (s.setAcu x).strobe n = s.strobe n := rfl
@[simp] theorem State.setLines_strobe (s : State) (x : Vector Line 16) (n : StrobeNo) : (s.setLines x).strobe n = s.strobe n := rfl
@[simp] theorem State.setCpq_strobe (s : State) (x : CaptureQueue) (n : StrobeNo) : (s.setCpq x).strobe n = s.strobe n := rfl
@[simp] theorem State.setRpq_strobe (s : State) (x : ReportQueue) (n : StrobeNo) : (s.setRpq x).strobe n = s.strobe n := rfl
@[simp] theorem State.setRnc_strobe (s : State) (x : RunControl) (n : StrobeNo) : (s.setRnc x).strobe n = s.strobe n := rfl
@[simp] theorem State.setLrx_strobe (s : State) (x : LinkReceiver) (n : StrobeNo) : (s.setLrx x).strobe n = s.strobe n := rfl
@[simp] theorem State.setLtx_strobe (s : State) (x : LinkTransmitter) (n : StrobeNo) : (s.setLtx x).strobe n = s.strobe n := rfl
@[simp] theorem State.setCmi_strobe (s : State) (x : CommandInterpreter) (n : StrobeNo) : (s.setCmi x).strobe n = s.strobe n := rfl
@[simp] theorem State.setFreeIndex_strobe (s : State) (x : Nat) (n : StrobeNo) : (s.setFreeIndex x).strobe n = s.strobe n := rfl
@[simp] theorem State.setStrobe_pending (s : State) (n : StrobeNo) (u : Strobe) : (s.setStrobe n u).pending = s.pending := rfl
@[simp] theorem State.setStrobe_pauses (s : State) (n : StrobeNo) (u : Strobe) : (s.setStrobe n u).pauses = s.pauses := rfl
@[simp] theorem State.setStrobe_tick (s : State) (n : StrobeNo) (u : Strobe) : (s.setStrobe n u).tick = s.tick := rfl
@[simp] theorem State.setStrobe_axes (s : State) (n : StrobeNo) (u : Strobe) : (s.setStrobe n u).axes = s.axes := rfl
@[simp] theorem State.setStrobe_mks (s : State) (n : StrobeNo) (u : Strobe) : (s.setStrobe n u).mks = s.mks := rfl
@[simp] theorem State.setStrobe_acu (s : State) (n : StrobeNo) (u : Strobe) : (s.setStrobe n u).acu = s.acu := rfl
@[simp] theorem State.setStrobe_lines (s : State) (n : StrobeNo) (u : Strobe) : (s.setStrobe n u).lines = s.lines := rfl
@[simp] theorem State.setStrobe_cpq (s : State) (n : StrobeNo) (u : Strobe) : (s.setStrobe n u).cpq = s.cpq := rfl
@[simp] theorem State.setStrobe_rpq (s : State) (n : StrobeNo) (u : Strobe) : (s.setStrobe n u).rpq = s.rpq := rfl
@[simp] theorem State.setStrobe_rnc (s : State) (n : StrobeNo) (u : Strobe) : (s.setStrobe n u).rnc = s.rnc := rfl
@[simp] theorem State.setStrobe_lrx (s : State) (n : StrobeNo) (u : Strobe) : (s.setStrobe n u).lrx = s.lrx := rfl
@[simp] theorem State.setStrobe_ltx (s : State) (n : StrobeNo) (u : Strobe) : (s.setStrobe n u).ltx = s.ltx := rfl
@[simp] theorem State.setStrobe_cmi (s : State) (n : StrobeNo) (u : Strobe) : (s.setStrobe n u).cmi = s.cmi := rfl
@[simp] theorem State.setStrobe_freeIndex (s : State) (n : StrobeNo) (u : Strobe) : (s.setStrobe n u).freeIndex = s.freeIndex := rfl
@[simp] theorem State.setStrobe_axis (s : State) (n : StrobeNo) (u : Strobe) (m : Axis) : (s.setStrobe n u).axis m = s.axis m := rfl
@[simp] theorem State.setStrobe_line (s : State) (n : StrobeNo) (u : Strobe) (m : LineNo) : (s.setStrobe n u).line m = s.line m := rfl

@[simp] theorem State.setStrobe_same (s : State) (n : StrobeNo) (u : Strobe) : (s.setStrobe n u).strobe n = u := by
  simp [State.setStrobe, State.strobe]

theorem State.setStrobe_other (s : State) (n m : StrobeNo) (u : Strobe) (h : m ≠ n) : (s.setStrobe n u).strobe m = s.strobe m := by
  have hv : n.val ≠ m.val := fun e => h (Fin.ext e.symm)
  simp [State.setStrobe, State.strobe, hv]

theorem State.setStrobe_strobe (s : State) (n m : StrobeNo) (u : Strobe) :
    (s.setStrobe n u).strobe m = if m = n then u else s.strobe m := by
  split
  · next h => subst h; simp
  · next h => exact s.setStrobe_other n m u h

@[simp] theorem mapUnits_getElem {α : Type} {n : Nat} (f : α → α) (v : Vector α n) (i : Nat) (h : i < n) :
    (mapUnits f v)[i] = f v[i] := by
  simp [mapUnits]

end Sys2Proof.Machine
end

