-- ==== Sys2Proof/Laws/Units.lean ====
section
/-! SUPPORT. The axes: taking a count (R14, R15), what a count of one axis leaves of the others, and the chain of REVS sources (R4 check
6). -/

namespace Sys2Proof.Machine

/-! ### Events by unit number -/

@[simp] theorem onAxis_val (a : Axis) (s : State) (f : Axis → State → State) : onAxis a.val s f = .next (f a s) := by
  simp [onAxis]

@[simp] theorem onStrobe_val (n : StrobeNo) (s : State) (f : StrobeNo → State → State) : onStrobe n.val s f = .next (f n s) := by
  simp [onStrobe]

@[simp] theorem onLine_val (n : LineNo) (s : State) (f : LineNo → State → State) : onLine n.val s f = .next (f n s) := by
  simp [onLine]

/-! ### The chain of sources -/

/-- One step along the chain of sources. -/
def State.nextSource (s : State) (x : Option Axis) : Option Axis := x.bind s.sourceOf

theorem State.chainMeets_iff_bounded (s : State) (a : Axis) (fuel : Nat) (b : Axis) :
    s.chainMeets a fuel b = true ↔ ∃ k, k < fuel ∧ s.nextSource^[k] (some b) = some a := by
  induction fuel generalizing b with
  | zero => simp [State.chainMeets]
  | succ fuel ih =>
    rw [State.chainMeets]
    by_cases hb : b = a
    · rw [if_pos hb]
      exact ⟨fun _ => ⟨0, Nat.succ_pos _, by rw [Function.iterate_zero, id, hb]⟩, fun _ => rfl⟩
    · rw [if_neg hb]
      have hshift : (∃ k, k < fuel + 1 ∧ s.nextSource^[k] (some b) = some a)
          ↔ ∃ k, k < fuel ∧ s.nextSource^[k] (s.sourceOf b) = some a := by
        constructor
        · rintro ⟨k, hk, he⟩
          cases k with
          | zero => exact absurd (Option.some.inj he) hb
          | succ k => exact ⟨k, by omega, by simpa [State.nextSource] using he⟩
        · rintro ⟨k, hk, he⟩
          exact ⟨k + 1, by omega, by simpa [State.nextSource] using he⟩
      rw [hshift]
      have hnone : ∀ k, s.nextSource^[k] none = none := by
        intro k
        induction k with
        | zero => rfl
        | succ k ihk => rw [Function.iterate_succ_apply]; exact ihk
      cases hm : (s.axis b).config.mode with
      | revs =>
        dsimp only
        rw [ih]
        simp [State.sourceOf, hm]
      | _ =>
        dsimp only
        simp [State.sourceOf, hm, hnone]

/-- Following the chain for as many axes as there are finds the axis if the chain meets it at all: the chain is deterministic, so a
first meeting passes through different axes. -/
theorem State.chainMeets_iff (s : State) (a b : Axis) : s.chainMeets a 8 b = true ↔ s.sourceChainMeets b a := by
  rw [State.chainMeets_iff_bounded]
  constructor
  · rintro ⟨k, _, hk⟩
    exact ⟨k, hk⟩
  · rintro hex
    classical
    change ∃ k, s.nextSource^[k] (some b) = some a at hex
    refine ⟨Nat.find hex, ?_, Nat.find_spec hex⟩
    set k := Nat.find hex with hkdef
    have hk : s.nextSource^[k] (some b) = some a := Nat.find_spec hex
    have hnone : ∀ j, s.nextSource^[j] none = none := by
      intro j
      induction j with
      | zero => rfl
      | succ j ihj => rw [Function.iterate_succ_apply]; exact ihj
    have hsome : ∀ i : Fin (k + 1), (s.nextSource^[i.val] (some b)).isSome = true := by
      intro i
      by_contra hc
      have hi : s.nextSource^[i.val] (some b) = none := by simpa using hc
      have : s.nextSource^[k] (some b) = none := by
        rw [show k = (k - i.val) + i.val by omega, Function.iterate_add_apply, hi, hnone]
      rw [hk] at this
      exact absurd this (by simp)
    have hinj : Function.Injective fun i : Fin (k + 1) => (s.nextSource^[i.val] (some b)).get (hsome i) := by
      have aux : ∀ i j : Fin (k + 1), i.val < j.val →
          s.nextSource^[i.val] (some b) ≠ s.nextSource^[j.val] (some b) := by
        intro i j hij he
        have : s.nextSource^[(k - j.val) + i.val] (some b) = some a := by
          rw [Function.iterate_add_apply, he, ← Function.iterate_add_apply, show k - j.val + j.val = k by omega, hk]
        have := Nat.find_min' hex this
        omega
      intro i j he
      have he' : s.nextSource^[i.val] (some b) = s.nextSource^[j.val] (some b) := by
        rw [← Option.some_get (hsome i), ← Option.some_get (hsome j)]
        exact congrArg some he
      rcases lt_trichotomy i.val j.val with hij | hij | hij
      · exact absurd he' (aux i j hij)
      · exact Fin.ext hij
      · exact absurd he'.symm (aux j i hij)
    have := Fintype.card_le_of_injective _ hinj
    simpa using this

/-! ### Taking a count -/

/-- A count with room for it (R14). -/
theorem AxisConfig.countTo_of_moves {c : AxisConfig} {p q : Int} {d : Direction} (h : c.moves p d q) :
    ∃ w, c.countTo p d = some (q, w) := by
  rcases h with ⟨hk, rfl, h1, h2⟩ | ⟨hk, h0, hm, rfl⟩
  · refine ⟨false, ?_⟩
    cases d <;> simp only [AxisConfig.countTo, hk, Direction.delta] at h1 h2 ⊢
    · exact if_pos h2
    · exact if_pos (show (-2147483648 : Int) ≤ p - 1 by omega)
  · cases d <;> simp only [AxisConfig.countTo, hk, Direction.delta]
    · by_cases hp : p = c.modulus - 1
      · refine ⟨true, ?_⟩
        rw [if_pos hp, hp]
        simp
      · refine ⟨false, ?_⟩
        rw [if_neg hp, Int.emod_eq_of_lt (by omega) (by omega)]
    · by_cases hp : p = 0
      · refine ⟨true, ?_⟩
        rw [if_pos hp, hp]
        have : (0 + -1 : Int) % c.modulus = c.modulus - 1 := by
          rw [← Int.add_emod_right, Int.emod_eq_of_lt] <;> omega
        rw [this]
      · refine ⟨false, ?_⟩
        rw [if_neg hp, Int.emod_eq_of_lt (by omega) (by omega)]
        rfl

/-- A count that would leave the LINEAR range (R15). -/
theorem AxisConfig.countTo_of_atLimit {c : AxisConfig} {p : Int} {d : Direction} (h : c.atLimit p d) : c.countTo p d = none := by
  obtain ⟨hk, ⟨rfl, rfl⟩ | ⟨rfl, rfl⟩⟩ := h <;> simp [AxisConfig.countTo, hk, Config.linearMax, Config.linearMin]

/-- A count moves a position that lies in the axis range within it (R14). -/
theorem AxisConfig.countTo_inRange {c : AxisConfig} {p q : Int} {d : Direction} {w : Bool} (h : c.inRange p = true)
    (hc : c.countTo p d = some (q, w)) : c.inRange q = true := by
  have hmax : Config.linearMax = 2147483647 := rfl
  have hmin : Config.linearMin = -2147483648 := rfl
  cases hk : c.kind <;> cases d <;>
    simp only [AxisConfig.countTo, AxisConfig.inRange, hk, Bool.and_eq_true, decide_eq_true_eq] at h hc ⊢ <;>
    split at hc <;> simp only [Option.some.injEq, Prod.mk.injEq, reduceCtorEq] at hc <;> omega

/-- A count of one axis changes that axis and the Report Queue alone. -/
theorem State.countAxis_frame (s : State) (a : Axis) (d : Direction) :
    ∃ u q, s.countAxis a d = (s.setAxis a u).setRpq q := by
  unfold State.countAxis
  dsimp only
  split
  · exact ⟨_, s.rpq, rfl⟩
  · rw [State.reportIf]
    split
    · exact ⟨_, _, rfl⟩
    · exact ⟨_, s.rpq, rfl⟩

/-- An axis that no REVS axis counts keeps its counts to itself (R11). -/
theorem State.count_noFollower {s : State} {a : Axis} (h : s.noFollower a) (d : Direction) :
    s.count a d = s.countAxis a d := by
  have hfilter : (allAxes.filter fun b => s.countsWrapsOf a b) = [] := by
    apply List.filter_eq_nil_iff.mpr
    intro b _
    rw [h b]
    exact Bool.false_ne_true
  rw [State.count, Config.revsDepth, State.deliverCount]
  split
  · rfl
  · rw [hfilter]
    rfl

end Sys2Proof.Machine
end

