-- ==== Sys2Proof/Laws/Frames.lean ====
section
/-! SUPPORT. What each shared operation of the events can change: the taking of a report, the offer of a capture, a count with all it
brings about, an action list, and an arrival. Claims cite these lemmas instead of unfolding the operations. -/

namespace Sys2Proof.Machine

/-! ### Reports and captures -/

/-- A report changes the Report Queue alone (R122). -/
theorem State.report_eq (s : State) (r : Report) : s.report r = { s with rpq := s.rpq.take r s.tick } := rfl

theorem State.reportIf_eq (s : State) (c : Bool) (r : Report) :
    s.reportIf c r = { s with rpq := if c then s.rpq.take r s.tick else s.rpq } := by
  cases c <;> rfl

/-- A capture stored changes the Capture Queue and the Report Queue alone (R108). -/
theorem State.storeCapture_eq (s : State) (c : Capture) :
    s.storeCapture c =
      { s with
        cpq := s.cpq.store c
        rpq := if s.cpq.waitingNotice then s.rpq
          else s.rpq.take (.capturesWaiting (s.cpq.records.length + 1) s.tick) s.tick } := by
  rw [State.storeCapture, State.reportIf_eq]
  cases s.cpq.waitingNotice <;> rfl

/-- A capture lost changes the Capture Queue and the Report Queue alone (R109). -/
theorem State.loseCapture_eq (s : State) (c : Capture) :
    s.loseCapture c =
      { s with
        cpq := s.cpq.lose
        rpq := if s.cpq.overrun then s.rpq else s.rpq.take (.captureOverrun c.tick c.source) s.tick } := by
  rw [State.loseCapture, State.reportIf_eq]
  cases s.cpq.overrun <;> rfl

/-- The Report Queue's mask, numbers, retry count, timer and signals are not the report's to change (R125). -/
theorem ReportQueue.take_frame (q : ReportQueue) (r : Report) (t : Tick) :
    q.take r t = { q with records := (q.take r t).records } := by
  unfold ReportQueue.take
  split <;> rfl

/-! ### Events that fire marks -/

/-- The blocks that no arrival, action list, count or group arming reaches, the run state among them. -/
abbrev State.sameLink (s t : State) : Prop :=
  t.pending = s.pending ∧ t.pauses = s.pauses ∧ t.tick = s.tick ∧ t.strobes = s.strobes ∧ t.rnc = s.rnc ∧ t.lrx = s.lrx ∧
    t.ltx = s.ltx ∧ t.cmi = s.cmi ∧ t.freeIndex = s.freeIndex ∧ t.mks.groupArms = s.mks.groupArms

theorem State.sameLink.trans {s t u : State} (h : s.sameLink t) (k : t.sameLink u) : s.sameLink u := by
  obtain ⟨h1, h2, h3, h4, h5, h6, h7, h8, h9, h10⟩ := h
  obtain ⟨k1, k2, k3, k4, k5, k6, k7, k8, k9, k10⟩ := k
  exact ⟨k1.trans h1, k2.trans h2, k3.trans h3, k4.trans h4, k5.trans h5, k6.trans h6, k7.trans h7, k8.trans h8,
    k9.trans h9, k10.trans h10⟩

theorem State.sameLink.refl (s : State) : s.sameLink s := ⟨rfl, rfl, rfl, rfl, rfl, rfl, rfl, rfl, rfl, rfl⟩

/-- What an arrival being taken still has to do, as far as the arrival record says it: its identity, the turns that have not begun
and the mark now firing. -/
def State.turns (s : State) : Option (Axis × Arrival × RunState × List MarkId × Option MarkId) :=
  s.mks.arrival.map fun r => (r.axis, r.arrival, r.run, r.fireList, r.firing)

/-- An operation inside a firing: it reaches axes, marks, lines, captures and reports only, and no turn of the arrival. -/
abbrev State.withinTurn (s t : State) : Prop := s.sameLink t ∧ t.turns = s.turns ∧ t.acu = s.acu

theorem State.withinTurn.trans {s t u : State} (h : s.withinTurn t) (k : t.withinTurn u) : s.withinTurn u :=
  ⟨h.1.trans k.1, k.2.1.trans h.2.1, k.2.2.trans h.2.2⟩

theorem State.withinTurn.refl (s : State) : s.withinTurn s := ⟨State.sameLink.refl s, rfl, rfl⟩

theorem State.report_withinTurn (s : State) (r : Report) : s.withinTurn (s.report r) := State.withinTurn.refl s

theorem State.reportIf_withinTurn (s : State) (c : Bool) (r : Report) : s.withinTurn (s.reportIf c r) := by
  rw [State.reportIf_eq]
  exact State.withinTurn.refl s

/-- An update of the arrival record that keeps its identity, its turns and the mark now firing. -/
theorem State.withinTurn_record (s : State) (f : ArrivalRecord → ArrivalRecord)
    (h : ∀ r, ((f r).axis, (f r).arrival, (f r).run, (f r).fireList, (f r).firing) = (r.axis, r.arrival, r.run, r.fireList, r.firing)) :
    s.withinTurn (s.setMks { s.mks with arrival := s.mks.arrival.map f }) := by
  refine ⟨State.sameLink.refl s, ?_, rfl⟩
  change Option.map _ (s.mks.arrival.map f) = s.mks.arrival.map _
  rw [Option.map_map]
  exact congrArg (fun g => s.mks.arrival.map g) (funext h)

theorem State.armMark_withinTurn (s : State) (id : MarkId) : s.withinTurn (s.armMark id).1 := by
  unfold State.armMark
  split
  · exact State.withinTurn.refl s
  · dsimp only
    split
    · exact State.withinTurn.refl s
    · split <;> exact State.withinTurn.refl s

theorem State.disarmMark_withinTurn (s : State) (id : MarkId) : s.withinTurn (s.disarmMark id).1 := by
  unfold State.disarmMark
  split
  · exact State.withinTurn.refl s
  · exact State.withinTurn_record (s.putMark _) _ fun _ => rfl

theorem State.armEach_withinTurn (ids : List MarkId) (s : State) : s.withinTurn (s.armEach ids).1 := by
  induction ids generalizing s with
  | nil => exact State.withinTurn.refl s
  | cons id rest ih => exact (s.armMark_withinTurn id).trans (ih _)

theorem State.disarmEach_withinTurn (ids : List MarkId) (s : State) : s.withinTurn (s.disarmEach ids).1 := by
  induction ids generalizing s with
  | nil => exact State.withinTurn.refl s
  | cons id rest ih => exact (s.disarmMark_withinTurn id).trans (ih _)

/-- One entry of an action list reaches axes, marks, lines, captures and reports only (R71 to R83). -/
theorem State.takeEntry_withinTurn (s : State) (c : ActionContext) (x : Action) : s.withinTurn (s.takeEntry c x) := by
  have line : ∀ (n : LineNo) (r : LineRequest), s.withinTurn (s.lineAction c n r) := by
    intro n r
    unfold State.lineAction
    split <;> exact State.withinTurn.refl s
  cases x with
  | pulse n v w => exact line n _
  | set n v => exact line n _
  | toggle n => exact line n _
  | snapshot mask =>
    simp only [State.takeEntry, State.snapshotAction]
    split
    · exact State.withinTurn.refl s
    · split
      · rw [State.storeCapture_eq]; exact State.withinTurn.refl s
      · rw [State.loseCapture_eq]; exact State.withinTurn.refl s
  | preset a v =>
    simp only [State.takeEntry, State.presetAction]
    split
    · exact State.withinTurn.refl s
    · split
      · exact State.withinTurn_record (s.setAxis a _) _ fun r => by split <;> rfl
      · exact State.withinTurn.refl s
  | armGroup g => exact State.armEach_withinTurn _ s
  | disarmGroup g => exact State.disarmEach_withinTurn _ s

/-! ### An action list -/

/-- The list runs the same whatever the context stood at. -/
theorem State.runEntries_setAcu (s : State) (x : Option ActionContext) (c : ActionContext) (list : List Action) :
    (s.setAcu x).runEntries c list = s.runEntries c list := by
  cases list <;> rfl

theorem State.setAcu_self {s : State} {x : Option ActionContext} (h : s.acu = x) : s.setAcu x = s := by
  subst h
  rfl

/-- An action list run to its end leaves the Action Unit IDLE and the turns of the arrival as they were (R70). -/
theorem State.runEntries_frame (list : List Action) (c : ActionContext) (s : State) :
    s.sameLink (s.runEntries c list) ∧ (s.runEntries c list).turns = s.turns ∧ (s.runEntries c list).acu = none := by
  induction list generalizing c s with
  | nil => exact ⟨State.sameLink.refl s, rfl, rfl⟩
  | cons x rest ih =>
    have h := State.takeEntry_withinTurn (s.setAcu (some c)) c x
    have k := ih { c with index := c.index + 1 } ((s.setAcu (some c)).takeEntry c x)
    exact ⟨State.sameLink.trans h.1 k.1, k.2.1.trans h.2.1, k.2.2⟩

theorem State.runContext_frame (s : State) :
    s.sameLink s.runContext ∧ s.runContext.turns = s.turns ∧ s.runContext.acu = none := by
  unfold State.runContext
  split
  · exact State.runEntries_frame _ _ s
  · rename_i h
    exact ⟨State.sameLink.refl s, rfl, h⟩

/-- The next entry taken, the list ends as it would have ended (R71). -/
theorem State.nextEntry_runContext {s : State} {c : ActionContext} (h : s.acu = some c) :
    (s.nextEntry c).runContext = s.runContext := by
  rw [State.runContext.eq_1 s, h]
  dsimp only
  unfold State.nextEntry
  cases hd : c.list.drop c.index with
  | nil => rfl
  | cons x rest =>
    dsimp only
    have hr : c.list.drop (c.index + 1) = rest := by rw [← List.drop_drop, hd]; rfl
    rw [State.runEntries, State.setAcu_self h]
    cases rest with
    | nil => rfl
    | cons y more =>
      change State.runEntries _ _ (c.list.drop (c.index + 1)) = _
      rw [hr, State.runEntries_setAcu]

theorem State.nextEntry_frame (s : State) (c : ActionContext) : s.sameLink (s.nextEntry c) ∧ (s.nextEntry c).turns = s.turns := by
  unfold State.nextEntry
  split
  · exact ⟨State.sameLink.refl s, rfl⟩
  · have h := s.takeEntry_withinTurn c ‹_›
    exact ⟨h.1, h.2.1⟩

/-! ### A firing and a turn -/

theorem State.transition_withinTurn (s : State) (id : MarkId) : s.withinTurn (s.transition id) := by
  unfold State.transition
  split
  · split <;> exact State.withinTurn.refl s
  · exact State.withinTurn.refl s

/-- The same turns, with another mark firing. -/
def refire (id : Option MarkId) (x : Option (Axis × Arrival × RunState × List MarkId × Option MarkId)) :
    Option (Axis × Arrival × RunState × List MarkId × Option MarkId) :=
  x.map fun y => (y.1, y.2.1, y.2.2.1, y.2.2.2.1, id)

theorem State.setFiring_turns (s : State) (id : Option MarkId) : (s.setFiring id).turns = refire id s.turns := by
  change Option.map _ (s.mks.arrival.map _) = refire id (s.mks.arrival.map _)
  rw [refire, Option.map_map, Option.map_map]
  rfl

/-- The end of a firing: no mark fires any more (R55 to R58). -/
theorem State.endFiring_frame (s : State) (id : MarkId) (p : Int) (d : Direction) (t : Tick) :
    s.sameLink (s.endFiring id p d t) ∧ (s.endFiring id p d t).turns = refire none s.turns ∧ (s.endFiring id p d t).acu = s.acu := by
  unfold State.endFiring
  split
  · rename_i m _
    have h := (s.reportIf_withinTurn m.report (m.firedReport p d t)).trans (State.transition_withinTurn _ id)
    refine ⟨h.1, ?_, h.2.2⟩
    rw [State.setFiring_turns, h.2.1]
  · exact ⟨State.sameLink.refl s, State.setFiring_turns s none, rfl⟩

theorem refire_none_of_firing {s : State} (h : s.firing = none) : refire none s.turns = s.turns := by
  unfold State.firing at h
  unfold refire State.turns
  cases hr : s.mks.arrival with
  | none => rfl
  | some r =>
    rw [hr] at h
    simp only [Option.bind_some] at h
    simp [h]

theorem State.firing_of_turns {s t : State} (h : t.turns = s.turns) : t.firing = s.firing := by
  unfold State.turns at h
  unfold State.firing
  cases hs : s.mks.arrival <;> cases ht : t.mks.arrival <;> rw [hs, ht] at h <;> simp_all

/-- A firing taken to its end leaves the Action Unit IDLE and no mark firing (R54 to R58). -/
theorem State.completeFiring_frame (s : State) (p : Int) (d : Direction) (t : Tick) :
    s.sameLink (s.completeFiring p d t) ∧ (s.completeFiring p d t).turns = refire none s.turns
      ∧ (s.completeFiring p d t).acu = none := by
  have run := s.runContext_frame
  unfold State.completeFiring
  split
  · have h := State.endFiring_frame s.runContext ‹_› p d t
    refine ⟨run.1.trans h.1, ?_, h.2.2.trans run.2.2⟩
    rw [h.2.1, run.2.1]
  · rename_i h
    exact ⟨run.1, by rw [run.2.1, refire_none_of_firing h], run.2.2⟩

/-- With no list running and no mark firing there is no firing to complete. -/
theorem State.completeFiring_idle {s : State} (ha : s.acu = none) (hf : s.firing = none) (p : Int) (d : Direction) (t : Tick) :
    s.completeFiring p d t = s := by
  simp only [State.completeFiring, State.runContext, ha, hf]

/-- The beginning of a turn leaves the turns that have not begun as they are. -/
theorem State.beginTurn_frame (s : State) (id : MarkId) (t : Tick) :
    s.sameLink (s.beginTurn id t) ∧ refire none (s.beginTurn id t).turns = refire none s.turns := by
  unfold State.beginTurn
  split
  · split
    · refine ⟨State.sameLink.refl s, ?_⟩
      unfold State.beginFiring
      rename_i m _ _
      change refire none (State.turns (State.setFiring (s.putMark (m.counted t)) (some m.id))) = _
      rw [State.setFiring_turns]
      change refire none (refire _ s.turns) = _
      unfold refire
      rw [Option.map_map]
      rfl
    · exact ⟨State.sameLink.refl s, rfl⟩
  · exact ⟨State.sameLink.refl s, rfl⟩

/-- The turns of an arrival leave the link, the strobes and the run state as they were, and the Action Unit IDLE. -/
theorem State.firePhase_frame (p : Int) (d : Direction) (t : Tick) (ids : List MarkId) (s : State) :
    s.sameLink (s.firePhase p d t ids) ∧ (s.acu = none → (s.firePhase p d t ids).acu = none) := by
  induction ids generalizing s with
  | nil => exact ⟨State.sameLink.refl s, id⟩
  | cons x rest ih =>
    have turn := (s.setFireList rest).beginTurn_frame x t
    have fire := ((s.setFireList rest).beginTurn x t).completeFiring_frame p d t
    exact ⟨State.sameLink.trans turn.1 (fire.1.trans (ih _).1), fun _ => (ih _).2 fire.2.2⟩

/-! ### An arrival -/

/-- With no arrival being taken there is nothing to settle (R49). -/
theorem State.settled_of_none {s : State} (h : s.mks.arrival = none) : s.settled = s := by
  rw [State.settled, h]

/-- An arrival taken to its end is no longer being taken, and has reached axes, marks, lines, captures and reports only (R49 to R58). -/
theorem State.settled_frame (s : State) : s.sameLink s.settled ∧ s.settled.mks.arrival = none := by
  unfold State.settled
  split
  · rename_i h
    exact ⟨State.sameLink.refl s, h⟩
  · split
    · exact ⟨State.sameLink.refl s, rfl⟩
    · rename_i r _ _ p d t _
      exact ⟨State.sameLink.trans (s.completeFiring_frame p d t).1 (State.firePhase_frame p d t r.fireList _).1, rfl⟩

theorem State.settled_settled (s : State) : s.settled.settled = s.settled := State.settled_of_none s.settled_frame.2

/-- A step arrival taken to its end leaves the Action Unit IDLE. -/
theorem State.settled_acu {s : State} (h : s.mks.arrival = none → s.acu = none)
    (hs : ∀ r ∈ s.mks.arrival, ∃ p d t, r.arrival = .step p d t) : s.settled.acu = none := by
  unfold State.settled
  split
  · rename_i hn
    exact h hn
  · rename_i r hr
    obtain ⟨p, d, t, ht⟩ := hs r hr
    rw [ht]
    exact (State.firePhase_frame p d t r.fireList _).2 (s.completeFiring_frame p d t).2.2

/-- A stage of an arrival reaches axes, marks, lines, captures and reports only. -/
theorem State.stage_sameLink (s : State) : s.sameLink s.stage := by
  unfold State.stage
  split
  · exact State.sameLink.refl s
  · split
    · exact State.sameLink.refl s
    · split
      · exact (s.nextEntry_frame _).1
      · exact (s.endFiring_frame _ _ _ _).1
      · exact ((s.setFireList _).beginTurn_frame _ _).1
      · exact State.sameLink.refl s

/-- A session loss, said once: the settled state with the lines at their safe levels, HOLD, the session LOST and the report (R92, R116, R158). -/
theorem State.loseSession_eq (s : State) (c : HoldCause) :
    s.loseSession c =
      { s.settled with
        lines := mapUnits Line.driveSafe s.settled.lines
        rnc := { state := .hold, cause := c }
        cmi := s.settled.cmi.lose s.settled.tick
        rpq := s.settled.rpq.sessionLost.take (.runState .hold c s.settled.tick) s.settled.tick } := by
  unfold State.loseSession
  generalize s.settled = u
  rfl

/-- A session loss drives each line to its safe level and cancels its pulse (R92). -/
theorem State.loseSession_line (s : State) (c : HoldCause) (l : LineNo) :
    (s.loseSession c).line l = (s.settled.line l).driveSafe := by
  rw [State.loseSession_eq]
  simp [State.line, mapUnits]

/-- What the settled state is, read off the turns of an arrival. -/
theorem State.settled_step {s : State} {a : Axis} {p : Int} {d : Direction} {t : Tick} {st : RunState} {ids : List MarkId}
    {f : Option MarkId} (h : s.turns = some (a, .step p d t, st, ids, f)) :
    s.settled = ((s.completeFiring p d t).firePhase p d t ids).setArrival none := by
  unfold State.turns at h
  unfold State.settled
  cases hr : s.mks.arrival with
  | none => rw [hr] at h; simp at h
  | some r =>
    rw [hr] at h
    simp only [Option.map_some, Option.some.injEq, Prod.mk.injEq] at h
    obtain ⟨-, h2, -, h4, -⟩ := h
    dsimp only
    rw [h2, h4]

theorem Qualifier.accepts_iff (q : Qualifier) (d : Direction) :
    q.accepts d = true ↔ q = .either ∨ (q = .up ∧ d = .up) ∨ (q = .down ∧ d = .down) := by
  cases q <;> cases d <;> simp [Qualifier.accepts]

/-- A stage of a step arrival, by what it still has to do. -/
theorem State.stage_of_turns {s : State} {a : Axis} {p : Int} {d : Direction} {t : Tick} {st : RunState} {ids : List MarkId}
    {f : Option MarkId} (h : s.turns = some (a, .step p d t, st, ids, f)) :
    s.stage = match (generalizing := false) s.acu, f, ids with
      | some c, _, _ => s.nextEntry c
      | none, some id, _ => s.endFiring id p d t
      | none, none, id :: rest => (s.setFireList rest).beginTurn id t
      | none, none, [] => s.setArrival none := by
  unfold State.turns at h
  unfold State.stage
  cases hr : s.mks.arrival with
  | none => rw [hr] at h; simp at h
  | some r =>
    rw [hr] at h
    simp only [Option.map_some, Option.some.injEq, Prod.mk.injEq] at h
    obtain ⟨-, h2, -, h4, h5⟩ := h
    dsimp only
    cases s.acu <;> cases f <;> cases ids <;> simp only [h2, h4, h5]

theorem State.setFireList_turns {s : State} {a : Axis} {x : Arrival} {st : RunState} {ids : List MarkId} {f : Option MarkId}
    (h : s.turns = some (a, x, st, ids, f)) (rest : List MarkId) : (s.setFireList rest).turns = some (a, x, st, rest, f) := by
  unfold State.turns at h
  change Option.map _ (s.mks.arrival.map _) = _
  cases hr : s.mks.arrival with
  | none => rw [hr] at h; simp at h
  | some r =>
    rw [hr] at h
    simp only [Option.map_some, Option.some.injEq, Prod.mk.injEq] at h
    obtain ⟨h1, h2, h3, -, h5⟩ := h
    rw [Option.map_some, Option.map_some, h1, h2, h3, h5]

theorem refire_eq {x : Option (Axis × Arrival × RunState × List MarkId × Option MarkId)} {a : Axis} {v : Arrival} {st : RunState}
    {ids : List MarkId} {f : Option MarkId} (h : refire none x = refire none (some (a, v, st, ids, f))) :
    ∃ g, x = some (a, v, st, ids, g) := by
  cases x with
  | none => simp [refire] at h
  | some q =>
    obtain ⟨q1, q2, q3, q4, q5⟩ := q
    simp only [refire, Option.map_some, Option.some.injEq, Prod.mk.injEq] at h
    obtain ⟨h1, h2, h3, h4, -⟩ := h
    exact ⟨q5, by rw [h1, h2, h3, h4]⟩

theorem State.firing_eq {s : State} {a : Axis} {x : Arrival} {st : RunState} {ids : List MarkId} {f : Option MarkId}
    (h : s.turns = some (a, x, st, ids, f)) : s.firing = f := by
  unfold State.turns at h
  unfold State.firing
  cases hr : s.mks.arrival with
  | none => rw [hr] at h; simp at h
  | some r =>
    rw [hr] at h
    simp only [Option.map_some, Option.some.injEq, Prod.mk.injEq] at h
    exact h.2.2.2.2

/-- A stage more or less, an arrival ends the same (R49). -/
theorem State.stage_settled (s : State) : s.stage.settled = s.settled := by
  cases hr : s.mks.arrival with
  | none => rw [State.stage, hr]
  | some r =>
    cases hx : r.arrival with
    | jump p t =>
      have hs : s.stage = s.setArrival none := by
        rw [State.stage, hr]
        dsimp only
        rw [hx]
      rw [hs, State.settled_of_none (s := s.setArrival none) rfl, State.settled, hr]
      dsimp only
      rw [hx]
    | step p d t =>
      have ht : s.turns = some (r.axis, .step p d t, r.run, r.fireList, r.firing) := by
        unfold State.turns
        rw [hr, Option.map_some, hx]
      have hf : s.firing = r.firing := State.firing_eq ht
      rw [State.stage_of_turns ht, State.settled_step ht]
      cases hc : s.acu with
      | some c =>
        have hk := (s.nextEntry_frame c).2
        dsimp only
        rw [State.settled_step (hk.trans ht)]
        simp only [State.completeFiring, State.firing_of_turns hk, State.nextEntry_runContext hc]
      | none =>
        cases hg : r.firing with
        | some id =>
          have hk := s.endFiring_frame id p d t
          have ht' : (s.endFiring id p d t).turns = some (r.axis, .step p d t, r.run, r.fireList, none) := by
            rw [hk.2.1, ht]
            rfl
          dsimp only
          rw [State.settled_step ht', State.completeFiring_idle (hk.2.2.trans hc) (State.firing_eq ht')]
          simp only [State.completeFiring, hf, hg, State.runContext, hc]
        | none =>
          rw [State.completeFiring_idle hc (hf.trans hg)]
          cases hl : r.fireList with
          | nil =>
            dsimp only
            rw [State.settled_of_none (s := s.setArrival none) rfl]
            rfl
          | cons id rest =>
            have hb := ((s.setFireList rest).beginTurn_frame id t).2
            rw [State.setFireList_turns ht rest] at hb
            obtain ⟨g, hg'⟩ := refire_eq hb
            dsimp only
            rw [State.settled_step hg']
            rfl

theorem State.stages_settled (n : Nat) (s : State) : (s.stages n).settled = s.settled := by
  induction n generalizing s with
  | zero => rfl
  | succ n ih => rw [State.stages, ih, State.stage_settled]

theorem State.stages_sameLink (n : Nat) (s : State) : s.sameLink (s.stages n) := by
  induction n generalizing s with
  | zero => exact State.sameLink.refl s
  | succ n ih => exact s.stage_sameLink.trans (ih _)

theorem State.goOn_sameLink (s : State) (x : Option Nat) : s.sameLink (s.goOn x) := by
  cases x with
  | none => exact s.settled_frame.1
  | some n => exact s.stages_sameLink n

/-- Wherever it pauses, an arrival ends the same (R49). -/
theorem State.goOn_settled (s : State) (x : Option Nat) : (s.goOn x).settled = s.settled := by
  cases x with
  | none => exact s.settled_settled
  | some n => exact s.stages_settled n

theorem State.stages_add (n k : Nat) (s : State) : s.stages (n + k) = (s.stages n).stages k := by
  induction n generalizing s with
  | zero => rw [Nat.zero_add]; rfl
  | succ n ih => rw [Nat.succ_add, State.stages, State.stages, ih]

/-- A running list comes to its end after some number of stages. -/
theorem State.exists_stages_list {a : Axis} {p : Int} {d : Direction} {t : Tick} {st : RunState} {ids : List MarkId}
    {f : Option MarkId} (k : Nat) (s : State) (h : s.turns = some (a, .step p d t, st, ids, f))
    (hk : ∀ c ∈ s.acu, (c.list.drop c.index).length ≤ k) :
    ∃ n, (s.stages n).acu = none ∧ (s.stages n).turns = some (a, .step p d t, st, ids, f) := by
  induction k generalizing s with
  | zero =>
    cases hc : s.acu with
    | none => exact ⟨0, hc, h⟩
    | some c =>
      have hd : c.list.drop c.index = [] := List.eq_nil_of_length_eq_zero (Nat.le_zero.mp (hk c hc))
      refine ⟨1, ?_, ?_⟩ <;> rw [State.stages, State.stages, State.stage_of_turns h, hc]
      · dsimp only
        rw [State.nextEntry, hd]
        rfl
      · exact (s.nextEntry_frame c).2.trans h
  | succ k ih =>
    cases hc : s.acu with
    | none => exact ⟨0, hc, h⟩
    | some c =>
      have hs : s.stage = s.nextEntry c := by rw [State.stage_of_turns h, hc]
      have ht : s.stage.turns = some (a, .step p d t, st, ids, f) := by rw [hs]; exact (s.nextEntry_frame c).2.trans h
      obtain ⟨n, hn⟩ := ih s.stage ht (by
        intro x hx
        rw [hs, State.nextEntry] at hx
        have hle := hk c hc
        cases hd : c.list.drop c.index with
        | nil =>
          rw [hd] at hx
          exact absurd hx (by simp [State.setAcu])
        | cons y rest =>
          rw [hd] at hx hle
          cases rest with
          | nil => exact absurd hx (by simp [State.setAcu])
          | cons z more =>
            simp only [State.setAcu, Option.mem_def, Option.some.injEq] at hx
            subst hx
            have hr : c.list.drop (c.index + 1) = z :: more := by rw [← List.drop_drop, hd]; rfl
            dsimp only
            rw [hr]
            simp only [List.length_cons] at hle ⊢
            omega)
      exact ⟨n + 1, hn⟩

/-- The turns of a step arrival come to their end after some number of stages. -/
theorem State.exists_stages_turns {a : Axis} {p : Int} {d : Direction} {t : Tick} {st : RunState} (ids : List MarkId)
    {f : Option MarkId} (s : State) (h : s.turns = some (a, .step p d t, st, ids, f)) :
    ∃ n, (s.stages n).mks.arrival = none := by
  have close : ∀ (ids : List MarkId) (f : Option MarkId) (s : State), s.turns = some (a, .step p d t, st, ids, f) →
      ∃ n, (s.stages n).acu = none ∧ (s.stages n).turns = some (a, .step p d t, st, ids, none) := by
    intro ids f s h
    obtain ⟨n, hn, ht⟩ := State.exists_stages_list ((s.acu.map fun c => (c.list.drop c.index).length).getD 0) s h (by
      intro c hc
      rw [show s.acu = some c from hc]
      exact le_refl _)
    cases f with
    | none => exact ⟨n, hn, ht⟩
    | some id =>
      have hk := (s.stages n).endFiring_frame id p d t
      have hs : (s.stages n).stage = (s.stages n).endFiring id p d t := by rw [State.stage_of_turns ht, hn]
      refine ⟨n + 1, ?_, ?_⟩
      · rw [State.stages_add, State.stages, State.stages, hs, hk.2.2, hn]
      · rw [State.stages_add, State.stages, State.stages, hs, hk.2.1, ht]
        rfl
  induction ids generalizing s f with
  | nil =>
    obtain ⟨n, hn, ht⟩ := close [] f s h
    refine ⟨n + 1, ?_⟩
    rw [State.stages_add, State.stages, State.stages, State.stage_of_turns ht, hn]
    rfl
  | cons id rest ih =>
    obtain ⟨n, hn, ht⟩ := close (id :: rest) f s h
    have hs : (s.stages n).stage = ((s.stages n).setFireList rest).beginTurn id t := by rw [State.stage_of_turns ht, hn]
    have hb := (((s.stages n).setFireList rest).beginTurn_frame id t).2
    rw [State.setFireList_turns ht rest] at hb
    obtain ⟨g, hg⟩ := refire_eq hb
    obtain ⟨k, hk⟩ := ih (s.stages n).stage (by rw [hs]; exact hg)
    exact ⟨n + (1 + k), by rw [State.stages_add, State.stages_add]; exact hk⟩

/-- An arrival comes to its end after some number of stages (R49). -/
theorem State.exists_stages_settled (s : State) : ∃ n, s.stages n = s.settled := by
  have done : ∀ n, (s.stages n).mks.arrival = none → s.stages n = s.settled := by
    intro n h
    rw [← State.stages_settled n s, State.settled_of_none h]
  cases hr : s.mks.arrival with
  | none => exact ⟨0, done 0 hr⟩
  | some r =>
    cases hx : r.arrival with
    | jump p t =>
      refine ⟨1, done 1 ?_⟩
      rw [State.stages, State.stages, State.stage, hr]
      dsimp only
      rw [hx]
      rfl
    | step p d t =>
      obtain ⟨n, hn⟩ := State.exists_stages_turns (a := r.axis) (p := p) (d := d) (t := t) (st := r.run) r.fireList (f := r.firing) s (by
        unfold State.turns
        rw [hr, Option.map_some, hx])
      exact ⟨n, done n hn⟩

/-- A step arrival begun reaches the mark table and the arrival record only (R50 to R52). -/
theorem State.beginStepArrival_eq (s : State) (a : Axis) (p : Int) (d : Direction) (t : Tick) :
    s.beginStepArrival a p d t = s.setMks (s.beginStepArrival a p d t).mks := by
  unfold State.beginStepArrival
  cases s.rnc.state <;> rfl

/-- STEP_ARRIVAL, wherever it pauses, reaches axes, marks, lines, captures and reports only (R49 to R58, R64). -/
theorem State.stepArrival_sameLink (x : Option Nat) (a : Axis) (s : State) : s.sameLink (s.stepArrival x a) := by
  have take : ∀ u : State, u.sameLink (u.takeStepArrival a x) := by
    intro u
    unfold State.takeStepArrival
    split
    · rename_i p d t rest _
      refine State.sameLink.trans (t := (u.setAxis a { u.axis a with arrivals := rest }).beginStepArrival a p d t) ?_
        (State.goOn_sameLink _ x)
      unfold State.beginStepArrival
      cases h : (u.setAxis a { u.axis a with arrivals := rest }).rnc.state <;> exact State.sameLink.refl u
    · exact State.sameLink.refl u
  unfold State.stepArrival
  split
  · split
    · exact s.goOn_sameLink x
    · exact s.settled_frame.1.trans (take _)
  · exact take s

/-- A count with every count it brings about reaches axes and reports only (R13 to R16). -/
theorem State.deliverCount_frame (depth : Nat) (a : Axis) (d : Direction) (s : State) :
    State.deliverCount depth a d s =
      { s with axes := (State.deliverCount depth a d s).axes, rpq := (State.deliverCount depth a d s).rpq } := by
  induction depth generalizing a d s with
  | zero => rfl
  | succ depth ih =>
    have step : ∀ (t : State) (x : Axis) (e : Direction),
        t.countAxis x e = { t with axes := (t.countAxis x e).axes, rpq := (t.countAxis x e).rpq } := by
      intro t x e
      simp only [State.countAxis]
      split
      · rfl
      · rw [State.reportIf_eq]
        rfl
    have each : ∀ (w : Direction) (l : List Axis) (t : State),
        l.foldl (fun st b => State.deliverCount depth b w st) t =
          { t with
            axes := (l.foldl (fun st b => State.deliverCount depth b w st) t).axes
            rpq := (l.foldl (fun st b => State.deliverCount depth b w st) t).rpq } := by
      intro w l
      induction l with
      | nil => intro t; rfl
      | cons b rest ihl =>
        intro t
        simp only [List.foldl_cons]
        rw [ihl, ih]
    simp only [State.deliverCount]
    split
    · exact step s a d
    · rw [each, step]

/-- A count with everything it brings about changes the axes and the Report Queue alone (R11, R16). -/
theorem State.count_frame (s : State) (a : Axis) (d : Direction) :
    s.count a d = { s with axes := (s.count a d).axes, rpq := (s.count a d).rpq } :=
  State.deliverCount_frame _ a d s

/-! ### Strobe events -/

/-- A capture offered changes the Capture Queue and the Report Queue alone (R108, R109). -/
theorem State.offerCapture_frame (s : State) (x : Capture) :
    ∃ (c : CaptureQueue) (q : ReportQueue), s.offerCapture x = { s with cpq := c, rpq := q } := by
  unfold State.offerCapture
  split
  · exact ⟨_, _, State.storeCapture_eq s x⟩
  · exact ⟨_, _, State.loseCapture_eq s x⟩

/-- A strobe event changes the Capture Queue, the Report Queue and the group arms requested, and nothing else (R103, R108, R109). -/
theorem State.strobeEvent_frame (s : State) (n : StrobeNo) (edge : Edge) (t : Tick) (positions : List Int) :
    ∃ (c : CaptureQueue) (q : ReportQueue), s.strobeEvent n edge t positions =
      { s with
        cpq := c, rpq := q
        mks := { s.mks with groupArms := s.mks.groupArms ++ (s.strobe n).config.armGroup.toList } } := by
  obtain ⟨c, q, h⟩ := s.offerCapture_frame
    { source := .strobe n edge, gap := false, tick := t, mask := (s.strobe n).config.mask, positions := positions }
  refine ⟨c, q, ?_⟩
  unfold State.strobeEvent
  dsimp only
  rw [h]
  cases (s.strobe n).config.armGroup with
  | none => rw [Option.toList_none, List.append_nil]
  | some g => rfl

end Sys2Proof.Machine
end

