-- ==== Sys2Proof/Laws/Commands.lean ====
section
/-! SUPPORT. What the taking of a COMMAND does (R154 to R156), said once: every named command is the answer of its own body on the state
without the entry. -/

namespace Sys2Proof.Machine

theorem Entry.row_of_command {e : Entry} (h : e.kind = .command) : e.row = commandRow e.payload := by
  simp [Entry.row, h]

theorem State.dropEntry_eq {s : State} {e : Entry} {rest : List Entry} (h : s.lrx.inbound = e :: rest) :
    s.dropEntry = s.withInbound rest := by
  simp [State.dropEntry, State.withInbound, State.setLrx, h]

/-- The entry at the head is taken as the event of its own row (R154). -/
theorem State.entryFor_row {s : State} {e : Entry} {rest : List Entry} (h : s.lrx.inbound = e :: rest)
    (hs : s.ltx.slot = none) : s.entryFor e.row = some e := by
  simp [State.entryFor, h, hs]

/-- The entry at the head is not taken as the event of another row. -/
theorem State.entryFor_other {s : State} {e : Entry} {rest : List Entry} {row : Instr} (h : s.lrx.inbound = e :: rest)
    (hr : e.row ≠ row) : s.entryFor row = none := by
  rcases hs : s.ltx.slot with _ | r <;> simp [State.entryFor, h, hs, hr]

/-- A COMMAND executed in OPEN leaves what its body leaves, its REPLY in the slot and in the cache (R156). -/
theorem State.takeCommand_executes {s : State} {e : Entry} {rest : List Entry} {row : Instr}
    (body : List Byte → State → Answer) (h : s.executes e rest) (hr : commandRow e.payload = row) :
    s.takeCommand row body =
      (body e.payload (s.withInbound rest)).state.answered e (body e.payload (s.withInbound rest)).status
        (body e.payload (s.withInbound rest)).data := by
  obtain ⟨⟨hq, hk, hs⟩, ho, hc⟩ := h
  have hrow : e.row = row := by rw [Entry.row_of_command hk, hr]
  have hf := State.entryFor_row hq hs
  rw [hrow] at hf
  have hd := State.dropEntry_eq hq
  have hn : (s.withInbound rest).cachedReply e.seq = none := by
    cases hx : s.cmi.cache with
    | none => simp [State.cachedReply, State.withInbound, hx]
    | some r =>
      simp only [State.notCached, hx, Option.all_some, decide_eq_true_eq] at hc
      simp [State.cachedReply, State.withInbound, hx, hc]
  have hopen : (s.withInbound rest).cmi.session = .opened := ho
  simp only [State.takeCommand, hf, hd, State.answerEntry, hopen, hn, State.executeEntry]
  rfl

/-- A named command executed in OPEN is the answer of its body to its operands. -/
theorem takeNamed_executes {s : State} {e : Entry} {rest : List Entry} {row : Instr} (body : List Byte → State → Answer)
    (h : s.executes e rest) (hr : commandRow e.payload = row) :
    takeNamed row body s =
      .next ((body e.payload.tail (s.withInbound rest)).state.answered e
        (body e.payload.tail (s.withInbound rest)).status (body e.payload.tail (s.withInbound rest)).data) := by
  rw [takeNamed, State.takeCommand_executes _ h hr]

/-- A named command that is taken before or after a whole arrival, executed in OPEN, is the answer of its body on the settled
state. -/
theorem takeWhole_executes {s : State} {e : Entry} {rest : List Entry} {row : Instr} (body : List Byte → State → Answer)
    (h : s.executes e rest) (hr : commandRow e.payload = row) :
    takeWhole row body s =
      .next ((body e.payload.tail (s.withInbound rest).settled).state.answered e
        (body e.payload.tail (s.withInbound rest).settled).status
        (body e.payload.tail (s.withInbound rest).settled).data) :=
  takeNamed_executes _ h hr

/-- With no arrival in progress a command is executed on the state without its entry. -/
theorem State.executesOn_of_none {s : State} {e : Entry} {rest : List Entry} (h : s.executes e rest)
    (ha : s.mks.arrival = none) : s.executesOn e rest (s.withInbound rest) := by
  refine ⟨h, ?_⟩
  rw [State.settled_of_none (s := s.withInbound rest) ha, ite_self]

/-- A command taken before or after a whole arrival, executed in OPEN, is the answer of its body on the state it is executed on. -/
theorem takeWhole_executesOn {s u : State} {e : Entry} {rest : List Entry} {row : Instr} (body : List Byte → State → Answer)
    (h : s.executesOn e rest u) (hr : commandRow e.payload = row) (hw : takesWhole row = true) :
    takeWhole row body s =
      .next ((body e.payload.tail u).state.answered e (body e.payload.tail u).status (body e.payload.tail u).data) := by
  have hrow : e.row = row := by rw [Entry.row_of_command h.1.1.2.1, hr]
  rw [h.2, hrow, if_pos hw]
  exact takeWhole_executes body h.1 hr

/-- The same for every other named command. -/
theorem takeNamed_executesOn {s u : State} {e : Entry} {rest : List Entry} {row : Instr} (body : List Byte → State → Answer)
    (h : s.executesOn e rest u) (hr : commandRow e.payload = row) (hw : takesWhole row = false) :
    takeNamed row body s =
      .next ((body e.payload.tail u).state.answered e (body e.payload.tail u).status (body e.payload.tail u).data) := by
  have hrow : e.row = row := by rw [Entry.row_of_command h.1.1.2.1, hr]
  rw [h.2, hrow, hw]
  exact takeNamed_executes body h.1 hr

/-- A COMMAND with no named reply in the cache and no OPEN session is answered without execution (R155). -/
theorem State.takeCommand_closed {s : State} {e : Entry} {rest : List Entry} {row : Instr}
    (body : List Byte → State → Answer) (h : s.commandReady e rest) (hr : commandRow e.payload = row)
    (hc : s.cmi.session ≠ .opened) :
    s.takeCommand row body =
      (s.withInbound rest).placed e (if s.cmi.session = .noSession then .noSession else .sessionLost) [] := by
  obtain ⟨hq, hk, hs⟩ := h
  have hf := State.entryFor_row hq hs
  rw [Entry.row_of_command hk, hr] at hf
  have hd := State.dropEntry_eq hq
  have hw : (s.withInbound rest).cmi.session = s.cmi.session := rfl
  cases hx : s.cmi.session with
  | noSession => simp only [State.takeCommand, hf, hd, State.answerEntry, hw, hx]; rfl
  | lost => simp only [State.takeCommand, hf, hd, State.answerEntry, hw, hx]; rfl
  | opened => exact absurd hx hc

/-- A COMMAND with the sequence number of the cached reply is answered from the cache (R156). -/
theorem State.takeCommand_cached {s : State} {e : Entry} {rest : List Entry} {row : Instr} {r : Reply}
    (body : List Byte → State → Answer) (h : s.commandReady e rest) (hr : commandRow e.payload = row)
    (ho : s.cmi.session = .opened) (hc : s.cmi.cache = some r) (hseq : r.seq = e.seq) :
    s.takeCommand row body = (s.withInbound rest).placeReply r := by
  obtain ⟨hq, hk, hs⟩ := h
  have hf := State.entryFor_row hq hs
  rw [Entry.row_of_command hk, hr] at hf
  have hd := State.dropEntry_eq hq
  have hw : (s.withInbound rest).cmi.session = .opened := ho
  have hn : (s.withInbound rest).cachedReply e.seq = some r := by
    simp [State.cachedReply, State.withInbound, hc, hseq]
  simp only [State.takeCommand, hf, hd, State.answerEntry, hw, hn]

/-- With no entry of a row at the head, the row's event changes nothing (log entry 1). -/
theorem State.takeCommand_absent {s : State} {row : Instr} (body : List Byte → State → Answer) (h : s.entryFor row = none) :
    s.takeCommand row body = s := by
  simp [State.takeCommand, h]

/-- A property of an event's outcome that holds of a state left alone, of every reply placed and of every execution holds of the taking of
a command. -/
theorem State.takeCommand_induct {s : State} {row : Instr} {body : List Byte → State → Answer} {P : State → Prop}
    (same : P s)
    (place : ∀ e r, s.entryFor row = some e → P (s.dropEntry.placeReply r))
    (run : ∀ e r, s.entryFor row = some e → s.cmi.session = .opened →
      P (((body e.payload s.dropEntry).state.placeReply r).cacheReply r)) :
    P (s.takeCommand row body) := by
  unfold State.takeCommand
  cases hf : s.entryFor row with
  | none => exact same
  | some e =>
    simp only [State.answerEntry]
    have hw : s.dropEntry.cmi.session = s.cmi.session := rfl
    cases hx : s.cmi.session with
    | noSession => simp only [hw, hx]; exact place e _ hf
    | lost => simp only [hw, hx]; exact place e _ hf
    | opened =>
      simp only [hw, hx]
      cases hn : s.dropEntry.cachedReply e.seq with
      | some r => exact place e r hf
      | none => exact run e _ hf hx

/-- What the execution of the command of a row is; none for a row that is not the taking of a COMMAND. -/
def commandBody : Instr → Option (List Byte → State → Answer)
  | .unknownCommand => some unknownCommandAnswer
  | .ping => some fun payload => pingAnswer payload.tail
  | .getInfo => some fun payload => getInfoAnswer payload.tail
  | .setLink => some fun payload => setLinkAnswer payload.tail
  | .getStatus => some fun payload t => getStatusAnswer payload.tail t.settled
  | .getLinkStats => some fun payload => getLinkStatsAnswer payload.tail
  | .maskReports => some fun payload => maskReportsAnswer payload.tail
  | .resetPart => some fun payload => resetPartAnswer payload.tail
  | .run => some fun payload t => runAnswer payload.tail t.settled
  | .hold => some fun payload t => holdAnswer payload.tail t.settled
  | .configAxis => some fun payload t => configAxisAnswer payload.tail t.settled
  | .presetAxis => some fun payload => presetAxisAnswer payload.tail
  | .readAxes => some fun payload => readAxesAnswer payload.tail
  | .clearAxisFault => some fun payload => clearAxisFaultAnswer payload.tail
  | .homeAxis => some fun payload => homeAxisAnswer payload.tail
  | .defineMark => some fun payload t => defineMarkAnswer payload.tail t.settled
  | .deleteMark => some fun payload t => deleteMarkAnswer payload.tail t.settled
  | .armMarks => some fun payload t => armMarksAnswer payload.tail t.settled
  | .disarmMarks => some fun payload t => disarmMarksAnswer payload.tail t.settled
  | .armGroup => some fun payload t => armGroupAnswer payload.tail t.settled
  | .disarmGroup => some fun payload t => disarmGroupAnswer payload.tail t.settled
  | .moveMark => some fun payload t => moveMarkAnswer payload.tail t.settled
  | .readMark => some fun payload t => readMarkAnswer payload.tail t.settled
  | .listMarks => some fun payload t => listMarksAnswer payload.tail t.settled
  | .configLine => some fun payload => configLineAnswer payload.tail
  | .driveLine => some fun payload => driveLineAnswer payload.tail
  | .readLines => some fun payload => readLinesAnswer payload.tail
  | .configStrobe => some fun payload => configStrobeAnswer payload.tail
  | .readStrobes => some fun payload => readStrobesAnswer payload.tail
  | .captureNow => some fun payload => captureNowAnswer payload.tail
  | .readCaptures => some fun payload => readCapturesAnswer payload.tail
  | .flushCaptures => some fun payload => flushCapturesAnswer payload.tail
  | .hardReset _ | .filteredSample _ _ _ _ | .timeCountExpiry _ | .stepArrival _ | .jumpArrival _ | .strobeEdge _ |
  .strobeQualificationExpiry _ | .strobeGroupArm | .pulseEnd _ | .ackTimerExpiry | .ackTimeoutSignal |
  .silenceTimerExpiry | .helloBeaconExpiry | .characterReceived _ _ | .gapTimerExpiry | .txTakeFrame | .txFrameDone _
  | .sync | .pinSample _ _ _ _ | .startBitConfirmed | .rxdReturnsHigh => none

/-- The event of a COMMAND's row is the taking of the COMMAND with the row's body. -/
theorem exec_command {i : Instr} {body : List Byte → State → Answer} (h : commandBody i = some body) (s : State) :
    exec i s = .next (s.takeCommand i body) := by
  cases i <;> simp only [commandBody, Option.some.injEq, reduceCtorEq] at h <;> subst h <;> rfl

/-- The row of every payload is the taking of a COMMAND. -/
theorem commandBody_commandRow (payload : List Byte) : ∃ body, commandBody (commandRow payload) = some body := by
  cases payload with
  | nil => exact ⟨_, rfl⟩
  | cons code rest =>
    simp only [commandRow, commandOf]
    split <;> exact ⟨_, rfl⟩

/-! ### What an idle step schedules -/

/-- No COMMAND is an event of the Mark Scheduler's own (Table 11-2). -/
theorem commandRow_ne_own (payload : List Byte) (n : Nat) :
    commandRow payload ≠ .stepArrival n ∧ commandRow payload ≠ .strobeGroupArm ∧ commandRow payload ≠ .ackTimeoutSignal := by
  cases payload with
  | nil => exact ⟨nofun, nofun, nofun⟩
  | cons code rest =>
    simp only [commandRow, commandOf]
    split <;> exact ⟨nofun, nofun, nofun⟩

/-- Nor is the event of an inbound entry. -/
theorem State.inboundEvent_ne_own {s : State} {i : Instr} (h : i ∈ s.inboundEvent) (n : Nat) :
    i ≠ .stepArrival n ∧ i ≠ .strobeGroupArm ∧ i ≠ .ackTimeoutSignal := by
  unfold State.inboundEvent at h
  split at h
  · rename_i e _ _ _
    rw [List.mem_singleton.1 h, Entry.row]
    split
    · exact ⟨nofun, nofun, nofun⟩
    · exact commandRow_ne_own _ n
  · cases h

/-- With nothing ready, an arrival in progress waits for the next tick, and its pause is the one that the tick uses up (R71; log entry 3). -/
theorem State.endWait_of_nothing_ready {s : State} (h : s.readyEvents = []) :
    s.endWait = s.setPauses (if s.mks.arrival.isSome then s.pauses.tail else s.pauses) := by
  unfold State.endWait
  cases ha : s.mks.arrival with
  | none => simp [State.waits, ha, State.setPauses]
  | some r =>
    have hr : s.resumeEvent = [] := by
      simp only [State.readyEvents, State.schedulerEvent, ha, List.append_eq_nil_iff] at h
      exact h.1.1
    have hw : s.waits = true := by
      cases hw : s.waits with
      | true => rfl
      | false => simp [State.resumeEvent, ha, hw, eventIf] at hr
    simp [hw]

/-- What a command changes beside the link and the Command Interpreter is what its own body changes (R154 to R156): a reading of the state
that looks at neither, and that the body keeps, is kept. -/
theorem State.takeCommand_keeps {α : Type} (g : State → α) (hlrx : ∀ s r, g (State.setLrx s r) = g s)
    (hltx : ∀ s x, g (State.setLtx s x) = g s) (hcmi : ∀ s c, g (State.setCmi s c) = g s)
    (row : Instr) (body : List Byte → State → Answer) (hbody : ∀ l s, g (body l s).state = g s) (s : State) :
    g (s.takeCommand row body) = g s := by
  unfold State.takeCommand
  split
  · unfold State.answerEntry
    split
    · exact (hltx _ _).trans (hlrx _ _)
    · exact (hltx _ _).trans (hlrx _ _)
    · split
      · exact (hltx _ _).trans (hlrx _ _)
      · exact (hcmi _ _).trans ((hltx _ _).trans ((hbody _ _).trans (hlrx _ _)))
  · rfl

end Sys2Proof.Machine
end

