-- ==== Sys2Proof/Laws/Link.lean ====
section
/-! SUPPORT. What the Link Receiver does with a character, its start bit confirmed or not, and what an accepted frame does to the silence
timer. -/

namespace Sys2Proof.Machine

/-- The silence timer after an accepted frame (R144, R157). -/
theorem State.frameAccepted_eq (s : State) :
    s.frameAccepted =
      if s.cmi.session = .opened ∧ s.cmi.params.silence ≠ 0 then
        { s with cmi := { s.cmi with silenceTimer := some (s.tick + BitVec.ofNat 48 (10000 * s.cmi.params.silence)) } }
      else s := by
  unfold State.frameAccepted silenceEnd
  split
  · next h => rw [if_neg h.2]; rfl
  · rfl

/-- A confirmed start bit and its character leave what the character alone leaves, in a receiver whose gap timer is stopped in HUNT (R139, R142;
log entry 11). -/
theorem character_after_startBit {s : State} (hw : s.lrx.line = .watching) (hg : s.lrx.state = .hunt → s.lrx.gapTimer = none) (b : Byte) :
    takeEach [.startBitConfirmed, .characterReceived b false] s = takeEach [.characterReceived b false] s := by
  simp only [takeEach, exec, execStartBitConfirmed, execCharacterReceived, hw]
  have key : ∀ r : LinkReceiver, r = s.lrx → r.line = .watching →
      (({ r with line := .inCharacter, gapTimer := none } : LinkReceiver).afterCharacter false).frame b false s.tick
        = (r.afterCharacter false).frame b false s.tick := by
    rintro r rfl -
    rcases hs : s.lrx with ⟨rate, line, state, buffer, gap, inbound, stats⟩
    rw [hs] at hg
    cases state
    · have hn : gap = none := hg rfl
      subst hn
      rfl
    · simp only [LinkReceiver.afterCharacter, LinkReceiver.frame, LinkReceiver.takeHeader]
      rcases buffer.headerCount with _ | _ | _
      · rfl
      · rfl
      · simp only [LinkReceiver.discard, LinkReceiver.toHunt, LinkReceiver.stored]
    · rfl
    · simp only [LinkReceiver.afterCharacter, LinkReceiver.frame, LinkReceiver.takeCheck]
      rcases buffer.crcCount with _ | _
      · rfl
      · simp only [LinkReceiver.complete, LinkReceiver.enqueue, LinkReceiver.discard, LinkReceiver.toHunt]
  have k := key s.lrx rfl hw
  simp only [State.character]
  rw [show (s.setLrx { s.lrx with line := RxLine.inCharacter, gapTimer := none }).lrx
    = { s.lrx with line := RxLine.inCharacter, gapTimer := none } from rfl]
  dsimp only
  rw [show (s.setLrx { s.lrx with line := RxLine.inCharacter, gapTimer := none }).tick = s.tick from rfl, k]
  rfl

end Sys2Proof.Machine
end

