-- ==== Sys2Proof/Laws/Marks.lean ====
section
/-! SUPPORT. The mark table read after it is written (R27, R40), and group arming and disarming as one map over the table (R30, R43, R44). -/

namespace Sys2Proof.Machine

/-- The ids of a table, each once and ascending (R27). -/
abbrev SortedIds (marks : List Mark) : Prop := (marks.map (·.id)).Pairwise (· < ·)

theorem SortedIds.tail {m : Mark} {marks : List Mark} (h : SortedIds (m :: marks)) : SortedIds marks := by
  simp only [SortedIds, List.map_cons, List.pairwise_cons] at h ⊢
  exact h.2

theorem SortedIds.lt {m x : Mark} {marks : List Mark} (h : SortedIds (m :: marks)) (hx : x ∈ marks) : m.id < x.id := by
  simp only [SortedIds, List.map_cons, List.pairwise_cons] at h
  exact h.1 x.id (List.mem_map_of_mem hx)

/-! ### Finding a record -/

@[simp] theorem findMark_nil (id : MarkId) : findMark [] id = none := rfl

theorem findMark_cons (m : Mark) (marks : List Mark) (id : MarkId) :
    findMark (m :: marks) id = if m.id = id then some m else findMark marks id := by
  by_cases h : m.id = id <;> simp [findMark, h]

theorem findMark_id {marks : List Mark} {id : MarkId} {m : Mark} (h : findMark marks id = some m) : m.id = id := by
  have := List.find?_some h
  simpa using this

theorem findMark_mem {marks : List Mark} {id : MarkId} {m : Mark} (h : findMark marks id = some m) : m ∈ marks :=
  List.mem_of_find?_eq_some h

theorem findMark_eq_none {marks : List Mark} {id : MarkId} : findMark marks id = none ↔ ∀ m ∈ marks, m.id ≠ id := by
  simp [findMark]

/-- In a sorted table a record is found exactly by its id. -/
theorem findMark_eq_some {marks : List Mark} (h : SortedIds marks) {id : MarkId} {m : Mark} :
    findMark marks id = some m ↔ m ∈ marks ∧ m.id = id := by
  constructor
  · exact fun hf => ⟨findMark_mem hf, findMark_id hf⟩
  · induction marks with
    | nil => simp
    | cons x rest ih =>
      rintro ⟨hm, hid⟩
      rw [findMark_cons]
      rcases List.mem_cons.mp hm with rfl | hm
      · simp [hid]
      · have hlt := h.lt hm
        rw [if_neg (by intro he; rw [he, ← hid] at hlt; exact lt_irrefl _ hlt)]
        exact ih h.tail ⟨hm, hid⟩

/-! ### Writing and erasing a record -/

theorem mem_putRecord {m x : Mark} {marks : List Mark} (h : x ∈ putRecord m marks) : x = m ∨ x ∈ marks := by
  induction marks with
  | nil => simp [putRecord] at h; exact Or.inl h
  | cons y rest ih =>
    rw [putRecord] at h
    split at h
    · simpa using h
    · split at h
      · rcases List.mem_cons.mp h with rfl | h
        · exact Or.inl rfl
        · exact Or.inr (List.mem_cons_of_mem _ h)
      · rcases List.mem_cons.mp h with rfl | h
        · exact Or.inr List.mem_cons_self
        · rcases ih h with h | h
          · exact Or.inl h
          · exact Or.inr (List.mem_cons_of_mem _ h)

theorem SortedIds.putRecord {marks : List Mark} (h : SortedIds marks) (m : Mark) :
    SortedIds (Sys2Proof.Machine.putRecord m marks) := by
  induction marks with
  | nil => simp [SortedIds, Sys2Proof.Machine.putRecord]
  | cons y rest ih =>
    have hy := h
    simp only [SortedIds, List.map_cons, List.pairwise_cons, List.mem_map, forall_exists_index, and_imp,
      forall_apply_eq_imp_iff₂] at hy
    rw [Sys2Proof.Machine.putRecord]
    split
    · rename_i hlt
      simp only [SortedIds, List.map_cons, List.pairwise_cons, List.mem_cons, List.mem_map]
      refine ⟨?_, ?_, hy.2⟩
      · rintro a (rfl | ⟨x, hx, rfl⟩)
        · exact hlt
        · exact lt_trans hlt (hy.1 x hx)
      · rintro a ⟨x, hx, rfl⟩
        exact hy.1 x hx
    · split
      · rename_i heq
        simp only [SortedIds, List.map_cons, List.pairwise_cons, List.mem_map]
        refine ⟨?_, hy.2⟩
        rintro a ⟨x, hx, rfl⟩
        rw [heq]
        exact hy.1 x hx
      · rename_i hnlt hne
        simp only [SortedIds, List.map_cons, List.pairwise_cons, List.mem_map]
        refine ⟨?_, ih h.tail⟩
        rintro a ⟨x, hx, rfl⟩
        rcases mem_putRecord hx with rfl | hx
        · exact lt_of_le_of_ne (not_lt.mp hnlt) (fun he => hne he.symm)
        · exact hy.1 x hx

/-- A record written is the one found by its id; every other id finds what it found. -/
theorem findMark_putRecord {marks : List Mark} (h : SortedIds marks) (m : Mark) (id : MarkId) :
    findMark (putRecord m marks) id = if m.id = id then some m else findMark marks id := by
  induction marks with
  | nil => rw [putRecord, findMark_cons]
  | cons y rest ih =>
    rw [putRecord]
    split
    · rw [findMark_cons]
    · split
      · rename_i heq
        rw [findMark_cons, findMark_cons, ← heq]
        split <;> rfl
      · rename_i hne
        rw [findMark_cons, ih h.tail, findMark_cons]
        by_cases hm : m.id = id
        · rw [if_neg (by intro he; exact hne (hm.trans he.symm)), if_pos hm, if_pos hm]
        · simp [hm]

theorem SortedIds.eraseRecord {marks : List Mark} (h : SortedIds marks) (id : MarkId) :
    SortedIds (Sys2Proof.Machine.eraseRecord marks id) :=
  h.sublist (List.Sublist.map _ List.filter_sublist)

theorem findMark_eraseRecord (marks : List Mark) (id other : MarkId) :
    findMark (eraseRecord marks id) other = if id = other then none else findMark marks other := by
  induction marks with
  | nil => simp [eraseRecord]
  | cons y rest ih =>
    rw [eraseRecord] at ih ⊢
    by_cases hy : y.id = id
    · rw [List.filter_cons_of_neg (by simp [hy]), ih, findMark_cons]
      by_cases ho : id = other <;> simp [ho, hy]
    · rw [List.filter_cons_of_pos (by simp [hy]), findMark_cons, ih, findMark_cons]
      by_cases ho : id = other
      · subst ho; simp [hy]
      · simp [ho]

/-! ### A record changed in place -/

/-- The record of mark `id` changed by `f`. -/
def updateRecord (f : Mark → Mark) (id : MarkId) (marks : List Mark) : List Mark :=
  marks.map fun x => if x.id = id then f x else x

/-- Writing back a changed record is the change in place. -/
theorem putRecord_eq_updateRecord {marks : List Mark} (h : SortedIds marks) {id : MarkId} {m : Mark} (f : Mark → Mark)
    (hm : findMark marks id = some m) (hf : (f m).id = m.id) : putRecord (f m) marks = updateRecord f id marks := by
  induction marks with
  | nil => simp at hm
  | cons y rest ih =>
    have hid := findMark_id hm
    rw [findMark_cons] at hm
    rw [putRecord, updateRecord, List.map_cons]
    by_cases hy : y.id = id
    · rw [if_pos hy] at hm
      injection hm with hm
      subst hm
      have hrest : rest.map (fun x => if x.id = id then f x else x) = rest := by
        conv_rhs => rw [← List.map_id rest]
        apply List.map_congr_left
        intro x hx
        have := h.lt hx
        rw [if_neg (by intro he; rw [hy, he] at this; exact lt_irrefl _ this)]
        rfl
      rw [if_neg (by rw [hf]; exact lt_irrefl _), if_pos hf, if_pos hy, hrest]
    · rw [if_neg hy] at hm
      have hlt : y.id < (f m).id := by rw [hf]; exact h.lt (findMark_mem hm)
      rw [if_neg (not_lt.mpr hlt.le), if_neg (ne_of_gt hlt), if_neg hy, ih h.tail hm]
      rfl

theorem map_id_updateRecord {f : Mark → Mark} (hf : ∀ m, (f m).id = m.id) (id : MarkId) (marks : List Mark) :
    (updateRecord f id marks).map (·.id) = marks.map (·.id) := by
  rw [updateRecord, List.map_map]
  apply List.map_congr_left
  intro x _
  by_cases h : x.id = id <;> simp [h, hf]

theorem findMark_map {f : Mark → Mark} (hf : ∀ m, (f m).id = m.id) (marks : List Mark) (id : MarkId) :
    findMark (marks.map f) id = (findMark marks id).map f := by
  induction marks with
  | nil => rfl
  | cons y rest ih =>
    rw [List.map_cons, findMark_cons, findMark_cons, hf, ih]
    split <;> rfl

/-! ### Groups -/

/-- The record of a mark as group arming at state `s` leaves it (R43). -/
def Mark.armedIn (s : State) (m : Mark) : Mark :=
  if m.active = false ∧ m.armable (s.axis m.axis).config (s.positionRead m.axis) = true then
    m.arm (s.axis m.axis).config (s.positionRead m.axis)
  else m

@[simp] theorem Mark.arm_id (m : Mark) (c : AxisConfig) (p : Int) : (m.arm c p).id = m.id := by
  rw [Mark.arm]
  cases m.kind <;> rfl

@[simp] theorem Mark.armedIn_id (s : State) (m : Mark) : (m.armedIn s).id = m.id := by
  rw [Mark.armedIn]
  split <;> simp

/-- Arming one mark changes its record in place and nothing else. -/
theorem State.armMark_fst {s : State} (h : SortedIds s.mks.marks) (id : MarkId) :
    (s.armMark id).1 = s.setMarks (updateRecord (Mark.armedIn s) id s.mks.marks) := by
  have keep : ∀ m, s.mark id = some m → m.armedIn s = m → s = s.setMarks (updateRecord (Mark.armedIn s) id s.mks.marks) := by
    intro m hm hk
    have hsame := putRecord_eq_updateRecord h (Mark.armedIn s) hm (by simp)
    have hid : updateRecord (Mark.armedIn s) id s.mks.marks = s.mks.marks := by
      rw [updateRecord]
      conv_rhs => rw [← List.map_id s.mks.marks]
      apply List.map_congr_left
      intro x hx
      by_cases hxi : x.id = id
      · have := (findMark_eq_some h).mpr ⟨hx, hxi⟩
        rw [State.mark, this] at hm
        injection hm with hm
        subst hm
        rw [if_pos hxi, hk]
        rfl
      · rw [if_neg hxi]
        rfl
    rw [hid]
    rfl
  rw [State.armMark]
  cases hm : s.mark id with
  | none =>
    have hnone := findMark_eq_none.mp hm
    have : updateRecord (Mark.armedIn s) id s.mks.marks = s.mks.marks := by
      rw [updateRecord]
      conv_rhs => rw [← List.map_id s.mks.marks]
      apply List.map_congr_left
      intro x hx
      rw [if_neg (hnone x hx)]
      rfl
    rw [this]
    rfl
  | some m =>
    dsimp only
    by_cases ha : m.active = true
    · rw [if_pos ha]
      exact keep m hm (by simp [Mark.armedIn, ha])
    · rw [if_neg ha]
      by_cases hr : m.armable (s.axis m.axis).config (s.positionRead m.axis) = true
      · rw [if_pos hr]
        have hk : m.armedIn s = m.arm (s.axis m.axis).config (s.positionRead m.axis) := by
          simp [Mark.armedIn, Bool.eq_false_iff.mpr ha, hr]
        have := putRecord_eq_updateRecord h (Mark.armedIn s) hm (by simp)
        rw [hk] at this
        rw [State.putMark, this]
      · rw [if_neg hr]
        exact keep m hm (by simp [Mark.armedIn, hr])

theorem findMark_updateRecord {f : Mark → Mark} (hf : ∀ m, (f m).id = m.id) {id other : MarkId} (h : id ≠ other)
    (marks : List Mark) : findMark (updateRecord f id marks) other = findMark marks other := by
  induction marks with
  | nil => rfl
  | cons y rest ih =>
    rw [updateRecord] at ih ⊢
    rw [List.map_cons, findMark_cons, findMark_cons, ih]
    by_cases hy : y.id = id
    · rw [if_pos hy, hf, if_neg (by rw [hy]; exact h), if_neg (by rw [hy]; exact h)]
    · rw [if_neg hy]

/-- Changes in place of different records, made one after another, are one map. -/
theorem map_updateRecord {f : Mark → Mark} (hf : ∀ m, (f m).id = m.id) {id : MarkId} {ids : List MarkId} (h : id ∉ ids)
    (marks : List Mark) :
    (updateRecord f id marks).map (fun x => if x.id ∈ ids then f x else x)
      = marks.map fun x => if x.id ∈ id :: ids then f x else x := by
  rw [updateRecord, List.map_map]
  apply List.map_congr_left
  intro x _
  by_cases hx : x.id = id
  · simp [hx, hf, h]
  · simp [hx]

/-- Arming depends on the axes and the arrival being taken alone. -/
theorem Mark.armedIn_setMarks (s : State) (marks : List Mark) : Mark.armedIn (s.setMarks marks) = Mark.armedIn s := by
  funext m
  rfl

/-- Arming a list of different marks changes their records in place and nothing else. -/
theorem State.armEach_fst (ids : List MarkId) (hn : ids.Nodup) (s : State) (h : SortedIds s.mks.marks) :
    (s.armEach ids).1 = s.setMarks (s.mks.marks.map fun x => if x.id ∈ ids then x.armedIn s else x) := by
  induction ids generalizing s with
  | nil => simp [State.armEach]; rfl
  | cons id ids ih =>
    rw [List.nodup_cons] at hn
    have hs : SortedIds (s.armMark id).1.mks.marks := by
      rw [State.armMark_fst h]
      change SortedIds (updateRecord _ id s.mks.marks)
      rw [SortedIds, map_id_updateRecord (by simp)]
      exact h
    simp only [State.armEach]
    rw [ih hn.2 _ hs, State.armMark_fst h]
    change s.setMarks (List.map _ (updateRecord _ id s.mks.marks)) = _
    rw [Mark.armedIn_setMarks, map_updateRecord (by simp) hn.1]

/-- The per-mark result of arming a record (R33). -/
def armResult (s : State) : Option Mark → MarkResult
  | none => .markUnused
  | some m =>
    if m.active then .alreadyArmed
    else if m.armable (s.axis m.axis).config (s.positionRead m.axis) then .ok else .outOfRange

theorem State.armMark_snd (s : State) (id : MarkId) : (s.armMark id).2 = armResult s (s.mark id) := by
  rw [State.armMark]
  cases s.mark id with
  | none => rfl
  | some m =>
    dsimp only [armResult]
    split
    · rfl
    · split <;> rfl

/-- Arming a list of different marks answers each with the result its record gives at the start. -/
theorem State.armEach_snd (ids : List MarkId) (hn : ids.Nodup) (s : State) (h : SortedIds s.mks.marks) :
    (s.armEach ids).2 = ids.map fun id => armResult s (s.mark id) := by
  induction ids generalizing s with
  | nil => rfl
  | cons id ids ih =>
    rw [List.nodup_cons] at hn
    have hfst := State.armMark_fst h id
    have hs : SortedIds (s.armMark id).1.mks.marks := by
      rw [hfst]
      change SortedIds (updateRecord _ id s.mks.marks)
      rw [SortedIds, map_id_updateRecord (by simp)]
      exact h
    simp only [State.armEach, List.map_cons]
    rw [ih hn.2 _ hs, State.armMark_snd]
    congr 1
    apply List.map_congr_left
    intro other ho
    have hne : id ≠ other := by rintro rfl; exact hn.1 ho
    have hm : (s.armMark id).1.mark other = s.mark other := by
      rw [hfst]
      exact findMark_updateRecord (by simp) hne _
    rw [hm, hfst]
    rfl

/-- The record of a mark disarmed (R37). -/
def Mark.disarmed (m : Mark) : Mark := { m with state := .disarmed }

@[simp] theorem Mark.disarmed_id (m : Mark) : m.disarmed.id = m.id := rfl

@[simp] theorem MarkScheduler.noteDisarmed_marks (k : MarkScheduler) (id : MarkId) : (k.noteDisarmed id).marks = k.marks := rfl

theorem MarkScheduler.noteDisarmed_absent {k : MarkScheduler} (h : k.arrival = none) (id : MarkId) :
    k.noteDisarmed id = k := by
  cases k
  simp only at h
  subst h
  rfl

/-- Disarming one mark with no arrival being taken changes its record in place and nothing else. -/
theorem State.disarmMark_fst {s : State} (h : SortedIds s.mks.marks) (ha : s.mks.arrival = none) (id : MarkId) :
    (s.disarmMark id).1 = s.setMarks (updateRecord Mark.disarmed id s.mks.marks) := by
  rw [State.disarmMark]
  cases hm : s.mark id with
  | none =>
    have hnone := findMark_eq_none.mp hm
    have : updateRecord Mark.disarmed id s.mks.marks = s.mks.marks := by
      rw [updateRecord]
      conv_rhs => rw [← List.map_id s.mks.marks]
      apply List.map_congr_left
      intro x hx
      rw [if_neg (hnone x hx)]
      rfl
    rw [this]
    rfl
  | some m =>
    dsimp only
    have := putRecord_eq_updateRecord h Mark.disarmed hm rfl
    rw [State.putMark, show ({ m with state := .disarmed } : Mark) = m.disarmed from rfl, this,
      MarkScheduler.noteDisarmed_absent (k := (s.setMarks (updateRecord Mark.disarmed id s.mks.marks)).mks) ha]
    rfl

/-- Disarming a list of different marks, with no arrival being taken, changes their records in place and nothing else. -/
theorem State.disarmEach_fst (ids : List MarkId) (hn : ids.Nodup) (s : State) (h : SortedIds s.mks.marks)
    (ha : s.mks.arrival = none) :
    (s.disarmEach ids).1 = s.setMarks (s.mks.marks.map fun x => if x.id ∈ ids then x.disarmed else x) := by
  induction ids generalizing s with
  | nil => simp [State.disarmEach]; rfl
  | cons id ids ih =>
    rw [List.nodup_cons] at hn
    have hfst := State.disarmMark_fst h ha id
    have hs : SortedIds (s.disarmMark id).1.mks.marks := by
      rw [hfst]
      change SortedIds (updateRecord _ id s.mks.marks)
      rw [SortedIds, map_id_updateRecord (by simp)]
      exact h
    have ha' : (s.disarmMark id).1.mks.arrival = none := by rw [hfst]; exact ha
    simp only [State.disarmEach]
    rw [ih hn.2 _ hs ha', hfst]
    change s.setMarks (List.map _ (updateRecord _ id s.mks.marks)) = _
    rw [map_updateRecord (by simp) hn.1]

/-- Disarming a list of different defined marks, with no arrival being taken, answers OK for each. -/
theorem State.disarmEach_snd (ids : List MarkId) (hn : ids.Nodup) (s : State) (h : SortedIds s.mks.marks)
    (ha : s.mks.arrival = none) (hd : ∀ id ∈ ids, s.mark id ≠ none) :
    (s.disarmEach ids).2 = ids.map fun _ => MarkResult.ok := by
  induction ids generalizing s with
  | nil => rfl
  | cons id ids ih =>
    rw [List.nodup_cons] at hn
    have hfst := State.disarmMark_fst h ha id
    have hs : SortedIds (s.disarmMark id).1.mks.marks := by
      rw [hfst]
      change SortedIds (updateRecord _ id s.mks.marks)
      rw [SortedIds, map_id_updateRecord (by simp)]
      exact h
    have ha' : (s.disarmMark id).1.mks.arrival = none := by rw [hfst]; exact ha
    have hd' : ∀ other ∈ ids, (s.disarmMark id).1.mark other ≠ none := by
      intro other ho
      have hne : id ≠ other := by rintro rfl; exact hn.1 ho
      rw [hfst]
      change findMark (updateRecord _ id s.mks.marks) other ≠ none
      rw [findMark_updateRecord (by simp) hne]
      exact hd other (List.mem_cons_of_mem _ ho)
    simp only [State.disarmEach, List.map_cons]
    rw [ih hn.2 _ hs ha' hd']
    congr 1
    have := hd id List.mem_cons_self
    rw [State.disarmMark]
    cases hm : s.mark id with
    | none => exact absurd hm this
    | some m => rfl

/-- The members of a group are different marks. -/
theorem State.members_nodup {s : State} (h : SortedIds s.mks.marks) (g : GroupNo) (p : Mark → Bool) :
    (s.members g p).Nodup := by
  have := h.sublist (List.Sublist.map (·.id) (List.filter_sublist (p := fun m : Mark => decide (m.group = g) && p m)))
  exact this.imp ne_of_lt

/-- A defined mark is listed as a member exactly when it is one. -/
theorem State.mem_members {s : State} (h : SortedIds s.mks.marks) (g : GroupNo) (p : Mark → Bool) {x : Mark}
    (hx : x ∈ s.mks.marks) : x.id ∈ s.members g p ↔ x.group = g ∧ p x = true := by
  simp only [State.members, List.mem_map, List.mem_filter, Bool.and_eq_true, decide_eq_true_eq]
  constructor
  · rintro ⟨m, ⟨hm, hg, hp⟩, he⟩
    have h1 := (findMark_eq_some h).mpr ⟨hm, he⟩
    have h2 := (findMark_eq_some h).mpr ⟨hx, rfl⟩
    rw [h1] at h2
    injection h2 with h2
    subst h2
    exact ⟨hg, hp⟩
  · rintro ⟨hg, hp⟩
    exact ⟨x, ⟨hx, hg, hp⟩, rfl⟩

/-- Group arming is one map over the table (R43). -/
theorem State.armMembers_fst {s : State} (h : SortedIds s.mks.marks) (g : GroupNo) :
    (s.armMembers g).1 = s.setMarks (s.mks.marks.map fun x => if x.group = g then x.armedIn s else x) := by
  rw [State.armMembers, State.armEach_fst _ (State.members_nodup h g _) s h]
  congr 1
  apply List.map_congr_left
  intro x hx
  have := State.mem_members h g Mark.idle hx
  by_cases hg : x.group = g
  · by_cases hi : x.idle = true
    · rw [if_pos (this.mpr ⟨hg, hi⟩), if_pos hg]
    · rw [if_neg (fun hm => hi (this.mp hm).2), if_pos hg]
      have hact : x.active = true := by simpa [Mark.idle] using hi
      simp [Mark.armedIn, hact]
  · rw [if_neg (fun hm => hg (this.mp hm).1), if_neg hg]

/-- Group disarming, with no arrival being taken, is one map over the table (R44). -/
theorem State.disarmMembers_fst {s : State} (h : SortedIds s.mks.marks) (ha : s.mks.arrival = none) (g : GroupNo) :
    (s.disarmMembers g).1 = s.setMarks (s.mks.marks.map fun x => if x.group = g then x.disarmed else x) := by
  rw [State.disarmMembers, State.disarmEach_fst _ (State.members_nodup h g _) s h ha]
  congr 1
  apply List.map_congr_left
  intro x hx
  have := State.mem_members h g Mark.disarmable hx
  by_cases hg : x.group = g
  · by_cases hi : x.disarmable = true
    · rw [if_pos (this.mpr ⟨hg, hi⟩), if_pos hg]
    · rw [if_neg (fun hm => hi (this.mp hm).2), if_pos hg]
      have hst : x.state = .disarmed := by simpa [Mark.disarmable] using hi
      cases x
      simp only at hst
      subst hst
      rfl
  · rw [if_neg (fun hm => hg (this.mp hm).1), if_neg hg]

/-! ### The RUN catch-up (R65 to R67) -/

/-- The catch-up of a mark at state `s` (R65, R66). -/
def Mark.advanceIn (s : State) (m : Mark) : Option (Mark × Nat) := m.catchUp (s.axis m.axis).config (s.axis m.axis).pos

theorem Mark.catchUp_id {m n : Mark} {c : AxisConfig} {p : Int} {k : Nat} (h : m.catchUp c p = some (n, k)) :
    n.id = m.id := by
  unfold Mark.catchUp at h
  split at h
  · split at h
    · dsimp only at h
      split at h
      · split at h
        · simp only [Option.some.injEq, Prod.mk.injEq] at h
          rw [← h.1]
        · split at h <;> simp only [Option.some.injEq, Prod.mk.injEq] at h <;> rw [← h.1]
      · split at h <;> simp only [Option.some.injEq, Prod.mk.injEq] at h <;> rw [← h.1]
    · exact absurd h (by simp)
  · exact absurd h (by simp)
  · exact absurd h (by simp)

/-- The record of a mark as the catch-up at state `s` leaves it. -/
def Mark.caughtUp (s : State) (m : Mark) : Mark := (Option.map Prod.fst (m.advanceIn s)).getD m

@[simp] theorem Mark.caughtUp_id (s : State) (m : Mark) : (m.caughtUp s).id = m.id := by
  unfold Mark.caughtUp
  cases h : m.advanceIn s with
  | none => rfl
  | some x => exact Mark.catchUp_id (n := x.1) (k := x.2) h

/-- The Report Queue after the MARK_SKIPPED reports of the marks advanced (R67). -/
def skipReports (t : Tick) (q : ReportQueue) (advanced : List (Mark × Nat)) : ReportQueue :=
  advanced.foldl (fun q x => q.take (x.1.skippedReport x.2 t) t) q

/-- The catch-up of a list of different defined marks: their records changed in place, one report each, and their number. -/
theorem State.catchUpEach_eq (L : List Mark) (s : State) (h : SortedIds s.mks.marks) (hn : (L.map (·.id)).Nodup)
    (hL : ∀ m ∈ L, s.mark m.id = some m) :
    s.catchUpEach (L.map (·.id)) =
      ((s.setMarks (s.mks.marks.map fun x => if x.id ∈ L.map (·.id) then x.caughtUp s else x)).setRpq
          (skipReports s.tick s.rpq (L.filterMap (Mark.advanceIn s))),
        (L.filterMap (Mark.advanceIn s)).length) := by
  induction L generalizing s with
  | nil => simp [State.catchUpEach, skipReports]; rfl
  | cons m L ih =>
    have hm : s.mark m.id = some m := hL m List.mem_cons_self
    rw [List.map_cons, List.nodup_cons] at hn
    have hLs : ∀ x ∈ L, s.mark x.id = some x := fun x hx => hL x (List.mem_cons_of_mem _ hx)
    have hsame : ∀ f : Mark → Mark, f m = m →
        (s.mks.marks.map fun x => if x.id ∈ m.id :: L.map (·.id) then f x else x)
          = s.mks.marks.map fun x => if x.id ∈ L.map (·.id) then f x else x := by
      intro f hf
      apply List.map_congr_left
      intro x hx
      by_cases hxm : x.id = m.id
      · have h1 := (findMark_eq_some h).mpr ⟨hx, hxm⟩
        rw [State.mark, h1] at hm
        injection hm with hm
        subst hm
        simp [hn.1, hf]
      · simp [hxm]
    rw [List.map_cons, State.catchUpEach, hm]
    dsimp only [Option.bind_some]
    change (match m.advanceIn s with | none => _ | some (n, k) => _) = _
    cases hadv : m.advanceIn s with
    | none =>
      dsimp only
      rw [ih s h hn.2 hLs, List.filterMap_cons_none hadv, hsame _ (by simp [Mark.caughtUp, hadv])]
    | some x =>
      obtain ⟨n, k⟩ := x
      dsimp only
      have hc : m.caughtUp s = n := by simp [Mark.caughtUp, hadv]
      have hput : s.putMark n = s.setMarks (updateRecord (Mark.caughtUp s) m.id s.mks.marks) := by
        rw [State.putMark, ← putRecord_eq_updateRecord h (Mark.caughtUp s) hm (by simp), hc]
      have hs : SortedIds ((s.putMark n).report (n.skippedReport k s.tick)).mks.marks := by
        rw [hput]
        change SortedIds (updateRecord _ m.id s.mks.marks)
        rw [SortedIds, map_id_updateRecord (by simp)]
        exact h
      have hLs' : ∀ x ∈ L, ((s.putMark n).report (n.skippedReport k s.tick)).mark x.id = some x := by
        intro x hx
        rw [hput]
        change findMark (updateRecord _ m.id s.mks.marks) x.id = some x
        rw [findMark_updateRecord (by simp) (by intro he; exact hn.1 (he ▸ List.mem_map_of_mem hx))]
        exact hLs x hx
      rw [ih _ hs hn.2 hLs']
      have hadvIn : Mark.advanceIn ((s.putMark n).report (n.skippedReport k s.tick)) = Mark.advanceIn s := by
        funext y
        rfl
      have hcu : Mark.caughtUp ((s.putMark n).report (n.skippedReport k s.tick)) = Mark.caughtUp s := by
        funext y
        rfl
      rw [hadvIn, hcu, List.filterMap_cons_some hadv]
      refine Prod.ext ?_ rfl
      rw [hput]
      change (s.setMarks (List.map _ (updateRecord _ m.id s.mks.marks))).setRpq _ = _
      rw [map_updateRecord (by simp) hn.1]
      rfl

/-- The RUN catch-up is one map over the table, with one report for each mark advanced, in ascending id order (R65 to R67). -/
theorem State.catchUp_eq {s : State} (h : SortedIds s.mks.marks) :
    s.catchUp =
      ((s.setMarks (s.mks.marks.map (Mark.caughtUp s))).setRpq
          (skipReports s.tick s.rpq (s.mks.marks.filterMap (Mark.advanceIn s))),
        (s.mks.marks.filterMap (Mark.advanceIn s)).length) := by
  rw [State.catchUp, State.catchUpEach_eq _ s h (h.imp ne_of_lt) (fun m hm => (findMark_eq_some h).mpr ⟨hm, rfl⟩)]
  refine Prod.ext ?_ rfl
  have : (s.mks.marks.map fun x => if x.id ∈ s.mks.marks.map (·.id) then x.caughtUp s else x)
      = s.mks.marks.map (Mark.caughtUp s) := by
    apply List.map_congr_left
    intro x hx
    rw [if_pos (List.mem_map_of_mem hx)]
  rw [this]

end Sys2Proof.Machine
end

