-- ==== Sys2Proof/Laws/Records.lean ====
section
/-! SUPPORT. Every change a mark record can go through keeps it lawful (R28, R29, R33, Table 2-1). -/

namespace Sys2Proof.Machine

/-- Being lawful depends on the kind and the modulus of the axis alone. -/
theorem Mark.lawful_congr {m : Mark} {c d : AxisConfig} (hk : d.kind = c.kind) (hm : d.modulus = c.modulus)
    (h : m.lawful c) : m.lawful d := by
  obtain ⟨h1, h2, h3⟩ := h
  exact ⟨fun ha hr => by rw [hm]; exact h1 ha (hk ▸ hr), h2, h3⟩

/-- An inactive record is lawful against any configuration. -/
theorem Mark.lawful_inactive {m : Mark} {c d : AxisConfig} (ha : m.active = false) (h : m.lawful c) : m.lawful d :=
  ⟨fun hc => absurd hc (by simp [ha]), h.2⟩

theorem Mark.lawful_disarmed {m : Mark} {c : AxisConfig} (h : m.lawful c) : m.disarmed.lawful c := by
  obtain ⟨_, h2, h3⟩ := h
  refine ⟨fun ha => absurd ha (by simp [Mark.disarmed, Mark.active]), ?_, h3⟩
  cases hk : m.kind with
  | once =>
    simp only [Mark.kindLawful, Mark.disarmed, hk, decide_eq_true_eq] at h2 ⊢
    exact ⟨h2.1, by simp⟩
  | repeating b =>
    simp only [Mark.kindLawful, Mark.disarmed, hk, decide_eq_true_eq] at h2 ⊢
    exact h2
  | pitch st b r => simp [Mark.kindLawful, Mark.disarmed, hk]

/-- A band check changes nothing but REARMING into ARMED (R35). -/
theorem Mark.bandCheck_cases (m : Mark) (c : AxisConfig) (p : Int) :
    m.bandCheck c p = m ∨
      (m.bandCheck c p = { m with state := .armed } ∧ m.state = .rearming ∧
        ∃ h, m.kind = .repeating h ∧ h ≤ c.distance p m.target) := by
  unfold Mark.bandCheck
  split
  · rename_i h hs hk
    split
    · rename_i hd
      exact Or.inr ⟨rfl, hs, h, hk, hd⟩
    · exact Or.inl rfl
  · exact Or.inl rfl

theorem Mark.lawful_bandCheck {m : Mark} {c : AxisConfig} {p : Int} (h : m.lawful c) : (m.bandCheck c p).lawful c := by
  rcases m.bandCheck_cases c p with he | ⟨he, hs, b, hk, _⟩
  · rw [he]
    exact h
  · obtain ⟨h1, h2, h3⟩ := h
    rw [he]
    refine ⟨fun _ hr => h1 (by simp [Mark.active, hs]) hr, ?_, h3⟩
    simp only [Mark.kindLawful, hk, decide_eq_true_eq] at h2 ⊢
    exact h2

/-- A position stands at distance 0 from itself (R35). -/
theorem AxisConfig.distance_self (c : AxisConfig) (p : Int) : c.distance p p = 0 := by
  simp only [AxisConfig.distance, sub_self]
  split <;> simp

/-- Arming a record that passes the range check makes it lawful (R33, R34, R36). -/
theorem Mark.lawful_arm {m : Mark} {c : AxisConfig} {p : Int} (h : m.lawful c) (ha : m.armable c p = true) :
    (m.arm c p).lawful c := by
  obtain ⟨_, h2, h3⟩ := h
  have hbase : c.kind = .rotary → 0 ≤ m.base ∧ m.base < c.modulus := by
    intro hk
    simp only [Mark.armable, hk, AxisConfig.inRange] at ha
    cases hkind : m.kind <;> simp [hkind] at ha <;> tauto
  unfold Mark.arm
  cases hkind : m.kind with
  | once => exact ⟨fun _ hr => hbase hr, by simp [Mark.kindLawful], h3⟩
  | repeating b =>
    simp only [Mark.kindLawful, hkind, decide_eq_true_eq] at h2
    exact ⟨fun _ hr => hbase hr, by simp [Mark.kindLawful, h2.2], h3⟩
  | pitch st base r =>
    refine ⟨fun _ hr => ?_, by simp [Mark.kindLawful], h3⟩
    simp only [hr]
    exact hbase hr

/-- The transition of a fired mark keeps it lawful (R56, R57). -/
theorem Mark.lawful_fired {m : Mark} {c : AxisConfig} (h : m.lawful c) (hM : c.kind = .rotary → 2 ≤ c.modulus)
    (hs : m.state = .armed) : (m.fired c).lawful c := by
  obtain ⟨h1, h2, h3⟩ := h
  have htarget := h1 (by simp [Mark.active, hs])
  unfold Mark.fired
  cases hkind : m.kind with
  | once =>
    simp only [Mark.kindLawful, hkind, decide_eq_true_eq] at h2
    exact ⟨fun _ hr => htarget hr, by simp [Mark.kindLawful, h2.1], h3⟩
  | repeating b =>
    simp only [Mark.kindLawful, hkind, decide_eq_true_eq] at h2
    exact ⟨fun _ hr => htarget hr, by simp [Mark.kindLawful, h2], h3⟩
  | pitch st base r =>
    dsimp only
    split
    · exact ⟨fun ha => absurd ha (by simp [Mark.active]), by simp [Mark.kindLawful], h3⟩
    · refine ⟨fun _ hr => ?_, ?_, h3⟩
      · have := hM hr
        simp only [advancedTarget, hr]
        exact ⟨Int.emod_nonneg _ (by omega), Int.emod_lt_of_pos _ (by omega)⟩
      · simp only [Mark.kindLawful, decide_eq_true_eq]
        split <;> simp

/-- The counting of a firing keeps a record lawful (R54). -/
theorem Mark.lawful_counted {m : Mark} {c : AxisConfig} {fires : Nat} {last : Option Tick} (h : m.lawful c) :
    ({ m with fires := fires, lastFire := last } : Mark).lawful c := h

/-- The RUN catch-up keeps a record lawful (R66). -/
theorem Mark.lawful_catchUp {m n : Mark} {c : AxisConfig} {p : Int} {k : Nat} (h : m.lawful c)
    (hc : m.catchUp c p = some (n, k)) : n.lawful c := by
  obtain ⟨h1, h2, h3⟩ := h
  have hlin : c.kind = .linear := by
    unfold Mark.catchUp at hc
    split at hc
    · split at hc
      · rename_i hcond
        exact hcond.2.1
      · exact absurd hc (by simp)
    · exact absurd hc (by simp)
    · exact absurd hc (by simp)
  have hno : ∀ x : Mark, (x.active = true → c.kind = .rotary → 0 ≤ x.target ∧ x.target < c.modulus) := by
    intro x _ hr
    rw [hlin] at hr
    exact absurd hr (by decide)
  unfold Mark.catchUp at hc
  split at hc
  · rename_i st base r hkind
    split at hc
    · rename_i hcond
      have hst := hcond.1
      dsimp only at hc
      split at hc
      · split at hc
        · simp only [Option.some.injEq, Prod.mk.injEq] at hc
          rw [← hc.1]
          exact ⟨hno _, by simp [Mark.kindLawful], h3⟩
        · split at hc <;> simp only [Option.some.injEq, Prod.mk.injEq] at hc <;> rw [← hc.1] <;>
            exact ⟨hno _, by simp [Mark.kindLawful, hst], h3⟩
      · split at hc <;> simp only [Option.some.injEq, Prod.mk.injEq] at hc <;> rw [← hc.1] <;>
          exact ⟨hno _, by simp [Mark.kindLawful, hkind, hst], h3⟩
    · exact absurd hc (by simp)
  · exact absurd hc (by simp)
  · exact absurd hc (by simp)

/-- MOVE_MARK keeps a record lawful (R45, R46). -/
theorem Mark.lawful_move {m n : Mark} {u : AxisUnit} {relative : Bool} {v : Int} (h : m.lawful u.config)
    (hM : u.config.kind = .rotary → 2 ≤ u.config.modulus) (hm : m.move u relative v = some n) : n.lawful u.config := by
  obtain ⟨h1, h2, h3⟩ := h
  simp only [Mark.move, Option.map_eq_some_iff] at hm
  obtain ⟨target, ht, rfl⟩ := hm
  apply Mark.lawful_bandCheck
  have hrange : u.config.kind = .rotary → 0 ≤ target ∧ target < u.config.modulus := by
    intro hr
    have := hM hr
    simp only [movedTarget, hr] at ht
    cases relative with
    | false =>
      simp only [AxisConfig.inRange, hr] at ht
      split at ht
      · rename_i hin
        simp only [Option.some.injEq] at ht
        simpa [ht] using hin
      · exact absurd ht (by simp)
    | true =>
      simp only [Option.some.injEq] at ht
      rw [← ht]
      exact ⟨Int.emod_nonneg _ (by omega), Int.emod_lt_of_pos _ (by omega)⟩
  unfold Mark.retarget
  cases hkind : m.kind with
  | once =>
    simp only [Mark.kindLawful, hkind, decide_eq_true_eq] at h2
    exact ⟨fun _ hr => hrange hr, by simp [Mark.kindLawful, h2.2], h3⟩
  | repeating b =>
    simp only [Mark.kindLawful, hkind, decide_eq_true_eq] at h2
    exact ⟨fun _ hr => hrange hr, by simp [Mark.kindLawful, h2.2], h3⟩
  | pitch st base r =>
    simp only [Mark.kindLawful, hkind, decide_eq_true_eq] at h2
    exact ⟨fun _ hr => hrange hr, by simp [Mark.kindLawful, h2], h3⟩

/-- An action list has one action for each seven bytes (Table 11-3). -/
theorem actionsOf_length (bytes : List Byte) : ∀ as, actionsOf bytes = some as → bytes.length = 7 * as.length := by
  fun_induction actionsOf bytes with
  | case1 =>
    intro as h
    simp only [Option.some.injEq] at h
    rw [← h]
    rfl
  | case2 k o1 o2 v0 v1 v2 v3 rest ih =>
    intro as h
    simp only [Option.bind_eq_bind, Option.bind_eq_some_iff, Option.some.injEq] at h
    obtain ⟨a, _, as', has', rfl⟩ := h
    have := ih as' has'
    simp only [List.length_cons]
    omega
  | case3 =>
    intro as h
    exact absurd h (by simp)

/-- A record DEFINE_MARK makes is DISARMED and lawful against any configuration (R38, R39). -/
theorem MarkFields.lawful_mark {f : MarkFields} {id : MarkId} {config : Axis → AxisConfig} {m : Mark} (d : AxisConfig)
    (hlen : f.entries.length = 7 * f.entryCount) (h : f.mark id config = some m) : m.lawful d ∧ m.state = .disarmed := by
  have hcount : f.entryCount ≤ 4 := by
    by_contra hc
    simp [MarkFields.mark, hc] at h
  simp only [MarkFields.mark, hcount, if_true, Option.bind_eq_bind, Option.bind_eq_some_iff] at h
  obtain ⟨axis, _, qual, _, kind, hkind, group, _, report, _, actions, hact, hend⟩ := h
  split at hend
  · simp only [Option.some.injEq] at hend
    rw [← hend]
    refine ⟨⟨fun ha => absurd ha (by simp [Mark.active]), ?_, ?_⟩, rfl⟩
    · unfold MarkFields.markKind at hkind
      dsimp only [Mark.kindLawful]
      split at hkind
      · simp only [Option.some.injEq] at hkind
        rw [← hkind]
        simp
      · split at hkind
        · rename_i hb
          simp only [Option.some.injEq] at hkind
          rw [← hkind]
          simp [hb.1]
        · exact absurd hkind (by simp)
      · split at hkind
        · dsimp only at hkind
          split at hkind
          · simp only [Option.some.injEq] at hkind
            rw [← hkind]
            simp
          · exact absurd hkind (by simp)
        · dsimp only at hkind
          split at hkind
          · simp only [Option.some.injEq] at hkind
            rw [← hkind]
            simp
          · exact absurd hkind (by simp)
      · exact absurd hkind (by simp)
    · have := actionsOf_length _ _ hact
      dsimp only
      omega
  · exact absurd hend (by simp)

end Sys2Proof.Machine
end

