-- ==== Sys2Proof/Laws/Values.lean ====
section
/-! SUPPORT. The values of the link read back (R164), the identifiers and enumerations of a command's operands, and the sets of axes. -/

namespace Sys2Proof.Machine

/-! ### Little-endian fields (R164) -/

theorem put8_eq (n : Nat) : put8 n = [BitVec.ofNat 8 n] := rfl

theorem le16_putBits16 (w : BitVec 16) :
    le16 (w.setWidth 8) ((w >>> 8).setWidth 8) = w.toNat := by
  have : ((w >>> 8).setWidth 8 ++ w.setWidth 8 : BitVec 16) = w := by
    ext i hi
    simp only [BitVec.getElem_append, BitVec.getElem_setWidth, BitVec.getLsbD_ushiftRight]
    split
    · rfl
    · rw [show 8 + (i - 8) = i by omega]
      rfl
  rw [le16, this]

theorem putBits32_append (w : BitVec 32) :
    ((w >>> 24).setWidth 8 ++ (w >>> 16).setWidth 8 ++ (w >>> 8).setWidth 8 ++ w.setWidth 8 : BitVec 32) = w := by
  ext i hi
  simp only [BitVec.getElem_append, BitVec.getElem_setWidth, BitVec.getLsbD_ushiftRight]
  split
  · rfl
  · split
    · rw [show 8 + (i - 8) = i by omega]; rfl
    · split
      · rw [show 16 + (i - 8 - 8) = i by omega]; rfl
      · rw [show 24 + (i - 8 - 8 - 8) = i by omega]; rfl

/-- A 16-bit field sent is read back. -/
theorem le16_put16 {n : Nat} (h : n < 65536) :
    le16 ((BitVec.ofNat 16 n).setWidth 8) ((BitVec.ofNat 16 n >>> 8).setWidth 8) = n := by
  rw [le16_putBits16, BitVec.toNat_ofNat]
  omega

/-- A 32-bit field sent is read back. -/
theorem le32_put32 {n : Nat} (h : n < 4294967296) :
    le32 ((BitVec.ofNat 32 n).setWidth 8) ((BitVec.ofNat 32 n >>> 8).setWidth 8) ((BitVec.ofNat 32 n >>> 16).setWidth 8)
      ((BitVec.ofNat 32 n >>> 24).setWidth 8) = n := by
  rw [le32, putBits32_append, BitVec.toNat_ofNat]
  omega

/-- A position sent is read back. -/
theorem leInt_putPos {p : Int} (h1 : -2147483648 ≤ p) (h2 : p ≤ 2147483647) :
    leInt ((BitVec.ofInt 32 p).setWidth 8) ((BitVec.ofInt 32 p >>> 8).setWidth 8) ((BitVec.ofInt 32 p >>> 16).setWidth 8)
      ((BitVec.ofInt 32 p >>> 24).setWidth 8) = p := by
  rw [leInt, putBits32_append, BitVec.toInt_ofInt]
  simp only [Int.bmod]
  norm_num
  omega

/-- A 32-bit position field lies in the LINEAR range. -/
theorem leInt_range (b0 b1 b2 b3 : Byte) : -2147483648 ≤ leInt b0 b1 b2 b3 ∧ leInt b0 b1 b2 b3 ≤ 2147483647 := by
  have h1 := BitVec.le_toInt (b3 ++ b2 ++ b1 ++ b0)
  have h2 := BitVec.toInt_lt (x := b3 ++ b2 ++ b1 ++ b0)
  norm_num at h1 h2
  rw [leInt]
  omega

/-! ### Identifiers and enumerations -/

theorem axisOf_eq {b : Byte} {a : Axis} (h : b.toNat = a.val) : axisOf b = some a := by
  simp only [axisOf, h, a.isLt, dite_true]

theorem axisOf_none {b : Byte} (h : 8 ≤ b.toNat) : axisOf b = none := dif_neg (by omega)

theorem lineOf_eq {b : Byte} {n : LineNo} (h : b.toNat = n.val) : lineOf b = some n := by
  simp only [lineOf, h, n.isLt, dite_true]

theorem lineOf_none {b : Byte} (h : 16 ≤ b.toNat) : lineOf b = none := dif_neg (by omega)

theorem strobeOf_eq {b : Byte} {n : StrobeNo} (h : b.toNat = n.val) : strobeOf b = some n := by
  simp only [strobeOf, h, n.isLt, dite_true]

theorem strobeOf_none {b : Byte} (h : 8 ≤ b.toNat) : strobeOf b = none := dif_neg (by omega)

theorem groupOf_eq {b : Byte} {g : GroupNo} (h : b.toNat = g.val) : groupOf b = some g := by
  simp only [groupOf, h, g.isLt, dite_true]

theorem groupOf_none {b : Byte} (h : 16 ≤ b.toNat) : groupOf b = none := dif_neg (by omega)

/-- A byte of at most 1 is 0 or 1. -/
theorem byte_flag {b : Byte} (h : b.toNat ≤ 1) : b = 0 ∨ b = 1 := by
  revert b
  decide +kernel

theorem flagOf_none {b : Byte} (h : 1 < b.toNat) : flagOf b = none := by
  unfold flagOf
  split
  · omega
  · omega
  · rfl

theorem levelOf_none {b : Byte} (h : 1 < b.toNat) : levelOf b = none := by
  unfold levelOf
  split
  · omega
  · omega
  · rfl

theorem Owner.ofByte_none {b : Byte} (h : 1 < b.toNat) : Owner.ofByte b = none := by
  unfold Owner.ofByte
  split
  · omega
  · omega
  · rfl

theorem Policy.ofByte_none {b : Byte} (h : 1 < b.toNat) : Policy.ofByte b = none := by
  unfold Policy.ofByte
  split
  · omega
  · omega
  · rfl

/-! ### Action lists and mark records (R38) -/

theorem actionsOf_cons (k o1 o2 v0 v1 v2 v3 : Byte) (rest : List Byte) :
    actionsOf (k :: o1 :: o2 :: v0 :: v1 :: v2 :: v3 :: rest) =
      (actionOf k o1 o2 (le32 v0 v1 v2 v3) (leInt v0 v1 v2 v3)).bind fun a => (actionsOf rest).map (a :: ·) := by
  rw [actionsOf]
  cases actionOf k o1 o2 (le32 v0 v1 v2 v3) (leInt v0 v1 v2 v3) <;> cases actionsOf rest <;> rfl

/-- Entry `k` of the bytes of an action list: the seven bytes from 7·k on (Table 11-3). -/
def actionAt (l : List Byte) (k : Nat) : Option Action :=
  actionOf (l.getD (7 * k) 0) (l.getD (7 * k + 1) 0) (l.getD (7 * k + 2) 0)
    (le32 (l.getD (7 * k + 3) 0) (l.getD (7 * k + 4) 0) (l.getD (7 * k + 5) 0) (l.getD (7 * k + 6) 0))
    (leInt (l.getD (7 * k + 3) 0) (l.getD (7 * k + 4) 0) (l.getD (7 * k + 5) 0) (l.getD (7 * k + 6) 0))

theorem actionAt_succ (k o1 o2 v0 v1 v2 v3 : Byte) (rest : List Byte) (n : Nat) :
    actionAt (k :: o1 :: o2 :: v0 :: v1 :: v2 :: v3 :: rest) (n + 1) = actionAt rest n := by
  simp only [actionAt, show 7 * (n + 1) = 7 * n + 7 by omega]
  rfl

/-- An action list is read entry by entry (Table 11-3). -/
theorem actionsOf_eq_some {n : Nat} {l : List Byte} (h : l.length = 7 * n) (as : List Action) :
    actionsOf l = some as ↔ as.length = n ∧ ∀ k, k < n → actionAt l k = as[k]? := by
  induction n generalizing l as with
  | zero =>
    cases l with
    | nil => cases as <;> simp [actionsOf]
    | cons => simp at h
  | succ n ih =>
    match l, h with
    | k :: o1 :: o2 :: v0 :: v1 :: v2 :: v3 :: rest, h =>
      have hr : rest.length = 7 * n := by simp only [List.length_cons] at h; omega
      rw [actionsOf_cons]
      have h0 : actionAt (k :: o1 :: o2 :: v0 :: v1 :: v2 :: v3 :: rest) 0 =
        actionOf k o1 o2 (le32 v0 v1 v2 v3) (leInt v0 v1 v2 v3) := rfl
      rw [← h0]
      cases as with
      | nil =>
        cases actionAt (k :: o1 :: o2 :: v0 :: v1 :: v2 :: v3 :: rest) 0 <;> simp
      | cons a as =>
        constructor
        · intro hh
          simp only [Option.bind_eq_some_iff, Option.map_eq_some_iff, List.cons.injEq] at hh
          obtain ⟨x, h1, y, h2, rfl, rfl⟩ := hh
          obtain ⟨h3, h4⟩ := (ih hr y).mp h2
          refine ⟨by simp [h3], fun j hj => ?_⟩
          cases j with
          | zero => simpa using h1
          | succ j => rw [actionAt_succ, h4 j (by omega)]; simp
        · rintro ⟨h1, h2⟩
          have := (ih hr as).mpr ⟨by simpa using h1, fun j hj => by
            have := h2 (j + 1) (by omega)
            rw [actionAt_succ] at this
            simpa using this⟩
          rw [h2 0 (by omega), this]
          simp
    | [], h => simp at h
    | [_], h => simp at h; omega
    | [_, _], h => simp at h; omega
    | [_, _, _], h => simp at h; omega
    | [_, _, _, _], h => simp at h; omega
    | [_, _, _, _, _], h => simp at h; omega
    | [_, _, _, _, _, _], h => simp at h; omega

/-- An action list is valid when every entry is (R38 check 8). -/
theorem actionsOf_isSome {n : Nat} {l : List Byte} (h : l.length = 7 * n) :
    (actionsOf l).isSome = true ↔ ∀ k, k < n → (actionAt l k).isSome = true := by
  constructor
  · intro hs k hk
    obtain ⟨as, ha⟩ := Option.isSome_iff_exists.mp hs
    obtain ⟨h1, h2⟩ := (actionsOf_eq_some h as).mp ha
    rw [h2 k hk]
    simp [h1, hk]
  · intro hs
    refine Option.isSome_iff_exists.mpr ⟨(List.range n).map fun k => (actionAt l k).getD (.toggle 0),
      (actionsOf_eq_some h _).mpr ⟨by simp, fun k hk => ?_⟩⟩
    obtain ⟨x, hx⟩ := Option.isSome_iff_exists.mp (hs k hk)
    simp [hk, hx]

/-- The record DEFINE_MARK makes, and every check it passes (R38, R39). -/
theorem MarkFields.mark_eq_some {f : MarkFields} {id : MarkId} {config : Axis → AxisConfig} {m : Mark} :
    f.mark id config = some m ↔
      ∃ (axis : Axis) (qual : Qualifier) (kind : MarkKind) (group : GroupNo) (report : Bool) (actions : List Action),
      axisOf f.axis = some axis ∧ Qualifier.ofByte f.qual = some qual ∧ f.markKind (config axis) qual = some kind ∧
      groupOf f.group = some group ∧ flagOf f.report = some report ∧ f.entryCount ≤ 4 ∧ actionsOf f.entries = some actions ∧
      (config axis).inRange f.base = true ∧
      m = { id, state := .disarmed, axis, kind, qual, base := f.base, target := f.base, group, report, actions,
            fires := 0, lastFire := none } := by
  unfold MarkFields.mark
  by_cases h : f.entryCount ≤ 4
  · simp only [h, if_true, Option.bind_eq_bind, Option.bind_eq_some_iff, Option.ite_none_right_eq_some, Option.some.injEq,
      true_and]
    constructor
    · rintro ⟨a, ha, q, hq, k, hk, g, hg, r, hr, as, h1, h2, rfl⟩
      exact ⟨a, q, k, g, r, as, ha, hq, hk, hg, hr, h1, h2, rfl⟩
    · rintro ⟨a, q, k, g, r, as, ha, hq, hk, hg, hr, h1, h2, rfl⟩
      exact ⟨a, ha, q, hq, k, hk, g, hg, r, hr, as, h1, h2, rfl⟩
  · simp [h]

/-! ### Frames and the link rate -/

/-- A frame on the line: the start code, the three header bytes, the payload and the two CRC bytes (R140). -/
theorem TxFrame.bytes_length (f : TxFrame) : f.bytes.length = 6 + f.payload.length := by
  simp only [TxFrame.bytes, frameBytes, putBits16, List.length_append, List.length_cons, List.length_nil]
  omega

/-- The four link rates by their code (R138). -/
theorem LinkRate.bitsPerSecond_eq (r : LinkRate) : [115200, 1000000, 3000000, 6000000].getD r.code 0 = r.bitsPerSecond := by
  cases r <;> rfl

/-! ### Sets of axes -/

/-- A set of axes holds exactly the axes of its condition. -/
theorem axisSet_getLsbD (p : Axis → Bool) (a : Axis) : (axisSet p).getLsbD a.val = p a := by
  have all : ∀ (w : BitVec 8) (a : Fin 8), (axisSet fun n => w.getLsbD n.val).getLsbD a.val = w.getLsbD a.val := by
    decide +kernel
  obtain ⟨w, hw⟩ : ∃ w : BitVec 8, p = fun n => w.getLsbD n.val := by
    refine ⟨BitVec.ofFnLE (fun n : Fin 8 => p n), ?_⟩
    funext n
    simp
  rw [hw]
  exact all w a

/-- The axes of a mask are those whose bit is set. -/
theorem mem_maskAxes (mask : BitVec 8) (a : Axis) : a ∈ maskAxes mask ↔ mask.getLsbD a.val = true := by
  have hall : a ∈ allAxes := by
    revert a
    decide
  simp [maskAxes, hall]

end Sys2Proof.Machine
end

