-- ==== Sys2Proof/Tests/Slice0.lean ====
section
/-! SUPPORT. The model's own tests. Expected values are the spec's figures and tables, named at each test. -/

namespace Sys2Proof.Tests

set_option Elab.async false

open Sys2Proof.Machine

/-! ### Helpers -/

/-- The next state of an event, or the state itself where it stops. -/
def after (i : Instr) (s : State) : State :=
  match exec i s with
  | .next t => t
  | .fault _ | .refused _ => s

/-- A part in an open session in RUN, with nothing pending on the link. -/
def base : State :=
  { State.reset with
    cmi := { State.reset.cmi with session := .opened, epoch := 1, beaconTimer := none }
    ltx := { State.reset.ltx with helloPending := false }
    rnc := { state := .run, cause := .host } }

/-- A COMMAND waiting at the head of the inbound queue. -/
def command (s : State) (seq : Byte) (payload : List Byte) : State :=
  { s with lrx := { s.lrx with inbound := [{ kind := .command, seq := seq, payload := payload }] } }

/-- The reply payload of an event. -/
def replied (s : State) : List Byte :=
  match s.ltx.slot with
  | some r => r.payload
  | none => []

/-- The bodies of the reports queued. -/
def reports (s : State) : List Report := s.rpq.records.map (·.body)

/-- An axis in a mode, at a position. -/
def axisAt (s : State) (a : Axis) (f : AxisConfig → AxisConfig) (p : Int) : State :=
  s.setAxis a { s.axis a with config := f (s.axis a).config, pos := p }

/-- The linear quadrature configuration. -/
def quad (c : AxisConfig) : AxisConfig := { c with mode := .quadX4 }

/-- A mark record with no history. -/
def markOn (id : MarkId) (axis : Axis) (kind : MarkKind) (qual : Qualifier) (target : Int) : Mark :=
  { id, state := .armed, axis, kind, qual, base := target, target, group := 0, report := true, actions := [],
    fires := 0, lastFire := none }

/-! ### Well-formedness -/

theorem test_axis_8_is_refused : Instr.wellFormed (.stepArrival 8) = false := by decide
theorem test_strobe_8_is_refused : Instr.wellFormed (.strobeEdge 8) = false := by decide
theorem test_line_16_is_refused : Instr.wellFormed (.pulseEnd 16) = false := by decide
theorem test_last_units_are_accepted :
    Instr.wellFormed (.jumpArrival 7) && Instr.wellFormed (.strobeQualificationExpiry 7)
      && Instr.wellFormed (.pulseEnd 15) = true := by decide

/-! ### Values and frames -/

/-- R140: the CRC of the text "123456789". -/
theorem test_crc_of_the_check_text :
    crcOf [0x31, 0x32, 0x33, 0x34, 0x35, 0x36, 0x37, 0x38, 0x39] = 0x29B1 := by decide +kernel

/-! ### Axis Units -/

/-- Figure 1-1, tick 5,008: from pair (1, 1) at 102, the pair (0, 0) is a phase error. -/
theorem test_figure_1_1_phase_error :
    let u := (axisAt base 2 quad 102).axis 2
    let s := base.setAxis 2
      { u with a := .seeded .high, b := .seeded .high, refA := .high, refB := .high, interval := some 4 }
    let t := after (.filteredSample 2 .low .low .low) { s with tick := 5008 }
    (t.axis 2).pos = 102 ∧ (t.axis 2).phaseFlag = true ∧ (t.axis 2).interval = some 4
      ∧ reports t = [.axisFault 2 .phase 102 5008 1] := by decide +kernel

/-- Figure 1-3, tick 95,400: DOWN count and ENCZ rise in one filtered sample. -/
theorem test_figure_1_3_homing :
    let c := fun c : AxisConfig =>
      { c with mode := .quadX4, kind := .rotary, modulus := 4096, indexQual := .down, indexMode := .homeOnce }
    let s := { axisAt base 3 c 2311 with tick := 95400 }
    let t := after (.filteredSample 3 .low .high .high) s
    (t.axis 3).pos = 0 ∧ (t.axis 3).home = .homed ∧ (t.axis 3).config.indexMode = .latch
      ∧ (t.axis 3).latch = some { pos := 2310, tick := 95400 }
      ∧ (t.axis 3).arrivals = [.step 2310 .down 95400, .jump 0 95400]
      ∧ reports t = [.indexSeen 3 2310 0 95400 .homed] := by decide +kernel

/-- Figure 1-2, tick 20,010: the wrap of axis 0 counts REVS axis 1. -/
theorem test_figure_1_2_revs :
    let c0 := fun c : AxisConfig => { c with mode := .timebase, kind := .rotary, modulus := 1000, divisor := 10 }
    let c1 := fun c : AxisConfig => { c with mode := .revs, source := 0 }
    let s := axisAt (axisAt base 0 c0 999) 1 c1 41
    let s1 := s.setAxis 0 { s.axis 0 with timeEnd := some 20010 }
    let t := after (.timeCountExpiry 0) { s1 with tick := 20010 }
    (t.axis 0).pos = 0 ∧ (t.axis 1).pos = 42 ∧ (t.axis 0).timeEnd = some 20020
      ∧ (t.axis 1).arrivals = [.step 42 .up 20010] := by decide +kernel

/-- R5: with filter 1 the second opposite sample still changes nothing. -/
theorem test_pin_sample_counts_the_run :
    let s := axisAt base 1 (fun c => { quad c with filter := 1 }) 0
    let t := after (.pinSample 1 .high .low .low) (after (.pinSample 1 .high .low .low) s)
    (t.axis 1).a = { pin := .high, filtered := .low, runCount := 2 } := by decide +kernel

/-- R15: an UP count at 2,147,483,647 is refused. -/
theorem test_count_at_the_linear_limit :
    let t := after (.filteredSample 0 .high .low .low) (axisAt base 0 quad 2147483647)
    (t.axis 0).pos = 2147483647 ∧ (t.axis 0).limitFlag = true ∧ (t.axis 0).arrivals = []
      ∧ reports t = [.axisFault 0 .limit 2147483647 0 0] := by decide +kernel

/-! ### Arrivals -/

/-- Figure 3-2, tick 1,200,000: the PITCH mark 50 fires at 800 and advances to 100 modulo 1,000. -/
theorem test_figure_3_2_pitch_advance :
    let c := fun c : AxisConfig => { c with mode := .quadX4, kind := .rotary, modulus := 1000 }
    let s := (axisAt base 0 c 800).putMark (markOn 50 0 (.pitch 300 (some 4) (some 4)) .up 800)
    let s1 := s.setAxis 0 { s.axis 0 with arrivals := [.step 800 .up 1200000] }
    let t := after (.stepArrival 0) s1
    (t.mark 50).map (fun m => (m.state, m.target, m.kind, m.fires))
        = some (.armed, 100, .pitch 300 (some 4) (some 3), 1)
      ∧ reports t = [.markFired 50 0 800 .up 1200000 1 800] := by decide +kernel

/-- Figure 3-3: one step arrival firing three marks, as id, target and state of axis 6 afterwards. -/
theorem test_figure_3_3_three_marks :
    let m5 := { markOn 5 6 .once .up 1500 with
      group := 2, actions := [.pulse 3 .high 50, .disarmGroup 7] }
    let m8 := { markOn 8 6 (.repeating 20) .either 1500 with group := 7, actions := [.set 4 .high] }
    let m11 := { markOn 11 6 (.pitch 250 (some 1) (some 1)) .up 1500 with group := 1, actions := [.armGroup 4] }
    let m14 := { markOn 14 6 .once .down 1500 with group := 3 }
    let m17 := { markOn 17 6 (.repeating 20) .either 1480 with group := 3, state := .rearming }
    let m20 := { markOn 20 6 .once .either 1500 with group := 4, state := .disarmed }
    let s := (axisAt base 6 quad 1500).setMarks [m5, m8, m11, m14, m17, m20]
    let s1 := (s.setLine 3 { s.line 3 with owner := .mark }).setLine 4 { s.line 4 with owner := .mark }
    let t := after (.stepArrival 6) (s1.setAxis 6 { s1.axis 6 with arrivals := [.step 1500 .up 2000000] })
    (t.axisMarks 6).map (fun m => (m.id, m.target, m.state))
        = [(17, 1480, .armed), (5, 1500, .spent), (8, 1500, .disarmed), (14, 1500, .armed), (20, 1500, .armed),
           (11, 1750, .spent)]
      ∧ (t.line 3).level = .high ∧ (t.line 4).level = .low := by decide +kernel

/-- Figure 4-2: the arrival of tick 500,000 begins; two ticks pass before mark 2's request and one before mark 9's. -/
def twoPulses (policy : Policy) : State :=
  let m2 := { markOn 2 1 .once .up 300 with actions := [.pulse 12 .high 100] }
  let m9 := { markOn 9 1 .once .up 300 with actions := [.pulse 12 .high 30] }
  let s := (base.setMarks [m2, m9]).setLine 12 { base.line 12 with owner := .mark, policy := policy }
  { (s.setAxis 1 { s.axis 1 with arrivals := [.step 300 .up 500000] }).setPauses [some 1, some 0, some 0, some 2, some 0] with
    tick := 500000, cmi := { s.cmi with session := .lost } }

/-- Figure 4-2: with the policies REFUSE and RESTART the two requests are taken at ticks 500,002 and 500,003. -/
theorem test_figure_4_2_line_requests_at_their_own_ticks :
    let first := fun policy => after (.stepArrival 1) (after (.stepArrival 1) (twoPulses policy)).idle.idle
    let last := fun policy => after (.stepArrival 1) (first policy).idle
    (∀ policy ∈ [Policy.refuse, .restart], (twoPulses policy).idle.pending = [.stepArrival 1] ∧ (first policy).tick = 500002
        ∧ ((first policy).line 12).pulse = some { level := .high, endTick := 501002 } ∧ (last policy).tick = 500003
        ∧ (last policy).mks.arrival = none ∧ (last policy).pauses = [])
      ∧ ((last .refuse).line 12).pulse = some { level := .high, endTick := 501002 } ∧ ((last .refuse).line 12).collisions = 1
      ∧ reports (last .refuse)
        = [.markFired 2 1 300 .up 500000 1 300, .actionSkipped 9 0 .lineBusy 500000, .markFired 9 1 300 .up 500000 1 300]
      ∧ ((last .restart).line 12).pulse = some { level := .high, endTick := 500303 } := by decide +kernel

/-- R75: a CONFIG_LINE between the two entries of one list; the second entry finds the line HOST-owned. -/
theorem test_config_line_between_entries :
    let m := { markOn 3 1 .once .up 5 with actions := [.set 15 .high, .toggle 15] }
    let s := ((base.setMarks [m]).setLine 15 { base.line 15 with owner := .mark }).setPauses [some 2]
    let s1 := after (.stepArrival 1) (s.setAxis 1 { s.axis 1 with arrivals := [.step 5 .up 9] })
    let s2 := after .configLine (command s1 9 [0x30, 15, 0, 0, 0])
    let t := after (.stepArrival 1) s2
    (s1.line 15).level = .high ∧ s1.acu.map (·.index) = some 1 ∧ (s2.line 15).owner = .host ∧ (t.line 15).level = .low
      ∧ t.mks.arrival = none ∧ t.acu = none
      ∧ reports t = [.actionSkipped 3 1 .lineNotMarkOwned 9, .markFired 3 1 5 .up 9 1 5] := by decide +kernel

/-- R59, R82: the unit stands at 9, but a REPEAT mark armed within the arrival at 5 reads 5 and is REARMING. -/
theorem test_arming_within_an_arrival_reads_its_position :
    let m := { markOn 3 1 .once .up 5 with actions := [.armGroup 7] }
    let n := { markOn 4 1 (.repeating 2) .either 5 with group := 7, state := .disarmed }
    let s := (axisAt base 1 quad 9).setMarks [m, n]
    let t := after (.stepArrival 1) (s.setAxis 1 { s.axis 1 with arrivals := [.step 5 .up 9] })
    t.mks.marks.map (·.state) = [.spent, .rearming] := by decide +kernel

/-- R49: a DISARM_MARKS that meets a paused arrival finds the mark already fired. -/
theorem test_mark_command_takes_the_arrival_to_its_end :
    let m := { markOn 3 1 .once .up 5 with actions := [.toggle 15] }
    let s := (base.setMarks [m]).setPauses [some 1]
    let s1 := after (.stepArrival 1) (s.setAxis 1 { s.axis 1 with arrivals := [.step 5 .up 9] })
    let t := after .disarmMarks (command s1 9 [0x23, 1, 3])
    s1.mks.arrival.isSome = true ∧ t.mks.arrival = none ∧ replied t = [0x23, 0, 1, 4, 0] := by decide +kernel

/-- Figure 4-3: one firing with skips. -/
theorem test_figure_4_3_skips :
    let m := { markOn 60 3 .once .up 5000 with
      actions := [.pulse 9 .high 200, .snapshot 0x28, .preset 7 10, .set 1 .high] }
    let s := (axisAt (axisAt base 3 quad 5001) 5 id 1234).setMarks [m]
    let s1 := s.setLine 9 { s.line 9 with owner := .mark }
    let s2 := { s1.setAxis 3 { s1.axis 3 with arrivals := [.step 5000 .up 9000000] } with tick := 9000002 }
    let t := after (.stepArrival 3) s2
    (t.line 9).pulse = some { level := .high, endTick := 9002002 }
      ∧ t.cpq.records = [{ source := .mark 60, gap := false, tick := 9000000, mask := 0x28, positions := [5001, 1234] }]
      ∧ reports t = [.capturesWaiting 1 9000002, .actionSkipped 60 2 .axisOff 9000000,
          .actionSkipped 60 3 .lineNotMarkOwned 9000000, .markFired 60 3 5000 .up 9000000 1 5000] := by
  decide +kernel

/-- Figure 3-4, order 7: the jump to 0 arms mark 33 and does not fire mark 34. -/
theorem test_figure_3_4_jump :
    let c := fun c : AxisConfig => { c with mode := .quadX4, kind := .rotary, modulus := 3600 }
    let m33 := { markOn 33 2 (.repeating 50) .either 60 with state := .rearming }
    let s := (axisAt base 2 c 0).setMarks [m33, markOn 34 2 .once .up 0]
    let t := after (.jumpArrival 2) (s.setAxis 2 { s.axis 2 with arrivals := [.jump 0 7000000] })
    t.mks.marks.map (·.state) = [.armed, .armed] ∧ reports t = [] := by decide +kernel

/-- R104: a group arm in RUN arms the DISARMED member. -/
theorem test_strobe_group_arm :
    let s := base.setMks
      { base.mks with marks := [{ markOn 1 0 .once .up 5 with state := .disarmed, group := 9 }], groupArms := [9] }
    let t := after .strobeGroupArm s
    t.mks.marks.map (·.state) = [.armed] ∧ t.mks.groupArms = [] := by decide +kernel

/-! ### Lines -/

/-- Figure 5-2, tick 1,000,800: the expiry ends the pulse LOW. -/
theorem test_pulse_end :
    let l := { base.line 6 with level := .high, pulse := some { level := .high, endTick := 1000800 } }
    let t := after (.pulseEnd 6) { base.setLine 6 l with tick := 1000800 }
    (t.line 6).level = .low ∧ (t.line 6).pulse = none := by decide +kernel

/-- R90, R94: a pulse on a busy REFUSE line is LINE_BUSY and is counted. -/
theorem test_drive_line_busy :
    let l := { base.line 5 with level := .high, pulse := some { level := .high, endTick := 700 } }
    let t := after .driveLine (command (base.setLine 5 l) 9 [0x31, 5, 3, 1, 50, 0, 0, 0])
    replied t = [0x31, 12] ∧ (t.line 5).collisions = 1 ∧ (t.line 5).pulse = l.pulse := by decide +kernel

/-- R94: a host pulse of width 50 answers remaining 50. -/
theorem test_drive_line_pulse :
    let t := after .driveLine (command base 9 [0x31, 5, 3, 1, 50, 0, 0, 0])
    replied t = [0x31, 0, 1, 50, 0, 0, 0] ∧ (t.line 5).pulse = some { level := .high, endTick := 500 } := by
  decide +kernel

/-! ### Strobes and captures -/

/-- Figure 6-2, tick 2,000,400: under BOTH the return edge is a glitch and starts a record of its own. -/
theorem test_figure_6_2_return_edge :
    let b : Strobe :=
      { config := { edges := .both, qual := 100, mask := 1, armGroup := none }, level := .high
        record := some { edge := .rising, tick := 2000000, positions := [400], endTick := 2001000 }, glitches := 0 }
    let t := after (.strobeEdge 2) { (axisAt base 0 quad 410).setStrobe 2 b with tick := 2000400 }
    (t.strobe 2).glitches = 1
      ∧ (t.strobe 2).record = some { edge := .falling, tick := 2000400, positions := [410], endTick := 2001400 } := by
  decide +kernel

/-- Figure 6-2, tick 2,001,400: the expiry stores the capture of the edge. -/
theorem test_figure_6_2_expiry :
    let b : Strobe :=
      { config := { edges := .both, qual := 100, mask := 1, armGroup := none }, level := .low
        record := some { edge := .falling, tick := 2000400, positions := [410], endTick := 2001400 }, glitches := 1 }
    let t := after (.strobeQualificationExpiry 2) { (axisAt base 0 quad 435).setStrobe 2 b with tick := 2001400 }
    t.cpq.records = [{ source := .strobe 2 .falling, gap := false, tick := 2000400, mask := 1, positions := [410] }]
      ∧ (t.strobe 2).record = none ∧ reports t = [.capturesWaiting 1 2001400] := by decide +kernel

/-- Figure 6-3: sixteen records of one position fit a READ_CAPTURES reply. -/
theorem test_figure_6_3_read_captures :
    let c : Capture := { source := .strobe 1 .rising, gap := false, tick := 5, mask := 1, positions := [7] }
    let q : CaptureQueue :=
      { records := List.replicate 128 c, overrun := true, gapPending := true, waitingNotice := true }
    let t := after .readCaptures (command (base.setCpq q) 1 [0x43, 32])
    (replied t).take 5 = [0x43, 0, 16, 112, 1] ∧ t.cpq.overrun = false ∧ t.cpq.gapPending = true
      ∧ t.cpq.records.length = 112 := by decide +kernel

/-! ### Run Control -/

/-- Figure 7-1, tick 76,000,000: the RUN command and its catch-up. -/
theorem test_figure_7_1_run :
    let m := markOn 20 4 (.pitch 400 (some 5) (some 1)) .up 12000
    let s := { (axisAt base 4 quad 12950).setMarks [m] with
      tick := 76000000, rnc := { state := .hold, cause := .linkSilent } }
    let t := after .run (command s 3 [0x08])
    replied t = [0x08, 0, 0, 1, 0] ∧ t.rnc = { state := .run, cause := .linkSilent }
      ∧ reports t = [.runState .run .host 76000000, .markSkipped 20 4 3 true 12000 (some 0) 76000000] := by
  decide +kernel

/-- Figure 7-1, tick 60,500,000: the silence expiry loses the session and drives the lines. -/
theorem test_figure_7_1_silence :
    let l := { base.line 2 with owner := .mark, level := .high, pulse := some { level := .high, endTick := 61000000 } }
    let s := { (base.setLine 2 l).setLine 14 { base.line 14 with level := .high } with tick := 60500000 }
    let t := after .silenceTimerExpiry (s.setCmi { s.cmi with silenceTimer := some 60500000 })
    t.cmi.session = .lost ∧ t.rnc = { state := .hold, cause := .linkSilent } ∧ (t.line 2).level = .low
      ∧ (t.line 2).pulse = none ∧ (t.line 14).level = .low ∧ t.cmi.beaconTimer = some 65500000
      ∧ reports t = [.runState .hold .linkSilent 60500000] := by decide +kernel

/-! ### Reports -/

/-- Figure 8-2: the second report dropped is absorbed. -/
theorem test_figure_8_2_absorption :
    let r : ReportRecord := { body := .axisFault 0 .phase 0 0 1, send := .unsent, created := 0 }
    let q : ReportQueue := { ReportQueue.reset with records := List.replicate 63 r }
    let q1 := (q.take (.markFired 0 0 0 .up 0 1 0) 90400000).take (.captureOverrun 90700000 .host) 90700000
    q1.records.length = 64
      ∧ q1.records.getLast? = some { body := .overflow 2 0x0082 90700000, send := .unsent, created := 90400000 } := by
  decide +kernel

/-- Figure 8-3, tick 10,300,000: ACK N = 254 removes the two oldest. -/
theorem test_figure_8_3_ack :
    let body : Report := .runState .run .host 0
    let rec' := fun st : SendState => ({ body := body, send := st, created := 0 } : ReportRecord)
    let q : ReportQueue :=
      { ReportQueue.reset with
        records := [rec' (.awaiting 252), rec' (.awaiting 253), rec' (.resend 254), rec' (.resend 255)]
        nextSeq := 0, retries := 1, ackTimer := some 10480000 }
    let p : LinkParams := { silence := 2000, ack := 20, retryLimit := 4, window := 4 }
    let q1 := q.acknowledge 254 p 10300000
    q1.records = [rec' (.resend 254), rec' (.resend 255)] ∧ q1.retries = 0 ∧ q1.ackTimer = some 10500000
      ∧ q.acknowledge 7 p 10300000 = q := by decide +kernel

/-- Figure 8-3, tick 10,280,000: the expiry marks the AWAITING records RESEND. -/
theorem test_figure_8_3_expiry :
    let rec' := fun st : SendState => ({ body := .runState .run .host 0, send := st, created := 0 } : ReportRecord)
    let q : ReportQueue :=
      { ReportQueue.reset with records := [rec' (.awaiting 252), rec' .unsent], nextSeq := 253, ackTimer := some 10280000 }
    let t := after .ackTimerExpiry { base.setRpq q with tick := 10280000 }
    t.rpq.records = [rec' (.resend 252), rec' .unsent] ∧ t.rpq.retries = 1 ∧ t.rpq.ackTimer = some 10480000 := by
  decide +kernel

/-! ### Link and sessions -/

/-- The characters of a frame, delivered one after another. -/
def receive (s : State) (bytes : List Byte) : State := bytes.foldl (fun t b => after (.characterReceived b false) t) s

/-- The receiver of `base`, watching for a start bit. -/
def watching : State := after .rxdReturnsHigh base

/-- R140, R144: a PING frame with two data bytes joins the inbound queue; 0xC3 inside it is data. -/
theorem test_frame_received :
    (receive watching (frameBytes commandCode 17 [0x01, 0xC3, 0x07])).lrx.inbound
      = [{ kind := .command, seq := 17, payload := [0x01, 0xC3, 0x07] }] := by decide +kernel

/-- R143: a damaged CRC is discarded and counted under CRC. -/
theorem test_crc_discard :
    let t := receive watching [0xC3, 0x03, 0x00, 0x00, 0x12, 0x34]
    t.lrx.inbound = [] ∧ t.lrx.stats.crc = 1 ∧ t.lrx.stats.last = some .crc ∧ t.lrx.state = .hunt := by
  decide +kernel

/-- Figure 10-2, tick 6,200,000: SYNC opens epoch 1 and calls for a HELLO. -/
theorem test_sync :
    let s := { State.reset with tick := 6200000 }
    let t := after .sync { s with lrx := { s.lrx with inbound := [{ kind := .sync, seq := 0, payload := [] }] } }
    t.cmi.session = .opened ∧ t.cmi.epoch = 1 ∧ t.cmi.beaconTimer = none ∧ t.cmi.silenceTimer = some 26200000
      ∧ t.ltx.helloPending = true ∧ t.lrx.inbound = [] := by decide +kernel

/-- R155: in LOST a COMMAND is answered SESSION_LOST and not cached. -/
theorem test_command_in_lost :
    let s := base.setCmi { base.cmi with session := .lost }
    let t := after .ping (command s 4 [0x01, 0x55])
    replied t = [0x01, 5] ∧ t.cmi.cache = none := by decide +kernel

/-- R156: an empty payload is BAD_LENGTH with command code 0x00. -/
theorem test_empty_command : replied (after .unknownCommand (command base 4 [])) = [0x00, 2] := by decide +kernel

/-- Figure 2-2: ARM_MARKS 20 and 21 on axis 4 at 10,250. -/
theorem test_figure_2_2_arm_marks :
    let m20 := { markOn 20 4 (.pitch 400 (some 5) (some 1)) .up 10000 with state := .disarmed }
    let m21 := { markOn 21 4 (.pitch 400 none none) .down 10000 with state := .disarmed }
    let t := after .armMarks (command ((axisAt base 4 quad 10250).setMarks [m20, m21]) 4 [0x22, 2, 20, 21])
    replied t = [0x22, 0, 2, 1, 0, 1, 0]
      ∧ t.mks.marks.map (fun m => (m.state, m.target, m.kind.remaining))
        = [(.armed, 10400, some 5), (.armed, 10000, none)] := by decide +kernel

/-- Figure 2-1: MOVE_MARK 3 RELATIVE +450. -/
theorem test_figure_2_1_move :
    let s := base.setMarks [{ markOn 3 1 .once .up 500 with state := .disarmed }]
    let t := after .moveMark (command s 4 ([0x26, 3, 1] ++ putPos 450))
    replied t = [0x26, 0] ++ putPos 500 ++ putPos 950 ++ [1]
      ∧ t.mks.marks.map (fun m => (m.base, m.target)) = [(950, 950)] := by decide +kernel

/-- Figure 2-1: LIST_MARKS axis 1, start index 2. -/
theorem test_figure_2_1_list :
    let m := fun (id : MarkId) (target : Int) => { markOn id 1 .once .up target with state := .disarmed }
    let s := base.setMarks [m 3 950, m 7 500, m 9 500, m 12 500]
    replied (after .listMarks (command s 4 [0x28, 1, 2]))
      = [0x28, 0, 1, 4, 0, 2, 2] ++ (12 :: putPos 500 ++ [1]) ++ (3 :: putPos 950 ++ [1]) := by decide +kernel

/-- R38, R39: a DEFINE_MARK of one action, read back with READ_MARK from its axis byte on. -/
theorem test_define_then_read :
    let entry : List Byte := [1, 3, 1, 50, 0, 0, 0]
    let s := after .defineMark
      (command base 4 ([0x20, 5, 6, 1, 1] ++ putPos 1500 ++ [2, 1, 0, 0, 0, 0, 0, 0, 0, 0, 1] ++ entry))
    let t := after .readMark (command { s with ltx := { s.ltx with slot := none } } 5 [0x27, 5])
    replied s = [0x20, 0, 0]
      ∧ replied t = [0x27, 0, 5, 1, 1, 6, 1, 1] ++ putPos 1500 ++ putPos 1500 ++ [2, 1, 0, 0, 0, 0, 0, 0, 0, 0, 0, 0, 0, 0]
        ++ List.replicate 6 0 ++ [1] ++ entry := by decide +kernel

/-- R22: CONFIG_AXIS of a TIMEBASE axis starts its time count and hands on the jump. -/
theorem test_config_axis :
    let t := after .configAxis (command { base with tick := 100 } 4
      ([0x10, 2, 6, 0, 1] ++ put32 1000 ++ [0] ++ put16 10 ++ [0, 0, 3] ++ putPos 0 ++ putPos 998))
    replied t = [0x10, 0] ∧ (t.axis 2).pos = 998 ∧ (t.axis 2).timeEnd = some 110
      ∧ (t.axis 2).arrivals = [.jump 998 100] := by decide +kernel

/-- R147: the idle transmitter takes the reply before the HELLO. -/
theorem test_transmit_order :
    let s := { base with ltx := { slot := some { seq := 7, payload := [1, 0] }, helloPending := true, sending := none } }
    let t := after .txTakeFrame s
    t.ltx.sending.map (·.frame.kind) = some .reply ∧ t.ltx.slot.isSome = true ∧ t.ltx.helloPending = true := by
  decide +kernel

/-- R163, R147: the end of the RESET_PART reply, 80 bit times at 115,200 bit/s after it began, makes the command reset. -/
theorem test_command_reset :
    let s := after .txTakeFrame (after .resetPart (command base 4 [0x07]))
    let t := after (.txFrameDone ResetPins.allLow) { s with tick := 6945 }
    after (.txFrameDone ResetPins.allLow) { s with tick := 6944 } = { s with tick := 6944 } ∧ t.cmi.resetCause = .command ∧ t.cmi.session = .noSession ∧ t.ltx.helloPending = true ∧ t.ltx.sending = none := by
  decide +kernel

/-- Log entry 2: from reset the first idle step schedules the HELLO. -/
theorem test_idle_schedules_the_hello : State.reset.idle.pending = [.txTakeFrame] := by decide +kernel

/-! ### Hypotheses that are met

One theorem per obligation with hypotheses: a state and operands that meet them, clause by clause, at the edges of their ranges. -/

/-- The inbound entry that `command s 9 payload` holds. -/
def entryOf (payload : List Byte) : Entry := { kind := .command, seq := 9, payload := payload }

/-- Whether an event answers a next state. -/
def completes (i : Instr) (s : State) : Bool :=
  match exec i s with
  | .next _ => true
  | .fault _ | .refused _ => false

theorem next_after {i : Instr} {s : State} (h : completes i s = true) : exec i s = .next (after i s) := by
  unfold completes at h
  unfold after
  split at h
  · rename_i heq
    rw [heq]
  · exact absurd h (by simp)
  · exact absurd h (by simp)

/-- Every payload can stand at the head of the inbound queue of a part that executes it. -/
theorem witness_executes (s : State) (payload : List Byte) (h : s.ltx.slot = none) (ho : s.cmi.session = .opened)
    (hc : s.cmi.cache = none) : (command s 9 payload).executes (entryOf payload) [] :=
  ⟨⟨rfl, rfl, h⟩, ho, by simp [State.notCached, command, hc]⟩

/-- `base` is such a part. -/
theorem witness_base_executes (payload : List Byte) : (command base 9 payload).executes (entryOf payload) [] :=
  witness_executes base payload rfl rfl rfl

/-- Every command that is executed is executed on some state; with no arrival in progress, on the state without its entry. -/
theorem witness_executesOn (s : State) (e : Entry) (rest : List Entry) (h : s.executes e rest) :
    (∃ u, s.executesOn e rest u) ∧ (s.mks.arrival = none → s.executesOn e rest (s.withInbound rest)) :=
  ⟨⟨_, h, rfl⟩, State.executesOn_of_none h⟩

theorem witness_StepTakesFrontEvent : ({ base with pending := [.ping, .sync] } : State).pending = .ping :: [.sync] := rfl

/-- A REPLY, and a REPORT, on the line. -/
def sendingKind (s : State) (k : TxKind) : State :=
  { s with ltx := { s.ltx with
      slot := some { seq := 3, payload := [7, 0] }
      sending := some { frame := { kind := k, seq := 3, payload := [7, 0] }, sent := 1, started := 0 } } }

/-- `base` with a command reset due. -/
def resetting : State := base.setCmi { base.cmi with resetDue := true }

theorem witness_EventsCompleteAndKeepQueueAndTick :
    (Instr.wellFormed (.timeCountExpiry 8) = false ∧ Instr.wellFormed (.strobeEdge 8) = false
      ∧ Instr.wellFormed (.pulseEnd 16) = false ∧ Instr.wellFormed (.pulseEnd 15) = true)
      ∧ exec .txTakeFrame base = .next (after .txTakeFrame base)
      ∧ exec (.txFrameDone ResetPins.allLow) { sendingKind resetting .reply with tick := 6945 }
        = .next (after (.txFrameDone ResetPins.allLow) { sendingKind resetting .reply with tick := 6945 })
      ∧ (after (.txFrameDone ResetPins.allLow) { sendingKind resetting .reply with tick := 6945 }).tick = 0 :=
  ⟨by decide, next_after (by decide +kernel), next_after (by decide +kernel), by decide +kernel⟩

/-- Frames of eight bytes, 80 bit times at 115,200 bit/s: on the line one tick too short, and long enough. -/
theorem witness_FrameDoneEmptiesOrResets :
    ∀ s ∈ [sendingKind base .report, sendingKind base .reply, sendingKind resetting .reply], ∃ x, s.ltx.sending = some x ∧
      [115200, 1000000, 3000000, 6000000].getD s.lrx.rate.code 0 = 115200
        ∧ ((6944 : Tick) - x.started).toNat * 115200 < 10 * (6 + x.frame.payload.length) * 10000000
        ∧ 10 * (6 + x.frame.payload.length) * 10000000 ≤ ((6945 : Tick) - x.started).toNat * 115200
        ∧ (x.frame.kind ≠ .reply ∨ s.cmi.resetDue = false ∨ s.cmi.resetDue = true) := by
  intro s hs
  simp only [List.mem_cons, List.not_mem_nil, or_false] at hs
  rcases hs with rfl | rfl | rfl <;> exact ⟨_, rfl, by decide +kernel⟩

/-- Every mode meets every old pair, reference pair and new pair, so every clause of the decode has a case. -/
theorem witness_PinModesDecode (m : AxisMode) (ra rb a b x y : Level) :
    ∃ u v : AxisUnit, u.config.mode = m ∧ (u.refA, u.refB) = (ra, rb) ∧ (u.a.filtered, u.b.filtered) = (a, b)
      ∧ (v.a.filtered, v.b.filtered) = (x, y) :=
  ⟨{ base.axis 0 with config := { AxisConfig.reset with mode := m }, refA := ra, refB := rb, a := .seeded a, b := .seeded b },
    { base.axis 0 with a := .seeded x, b := .seeded y }, rfl, rfl, rfl, rfl⟩

theorem witness_SamplesFilterThePins :
    ((PinFilter.seeded .low).filtered ≠ .high ∧ (PinFilter.seeded .low).runCount = 0 ∧ 30 ≤ 2 * 15)
      ∧ (PinFilter.seeded .high).filtered = .high
      ∧ ((base.axis 7).filteredChange ((base.axis 7).sample .low .low .low) = false)
      ∧ (base.axis 7).filteredChange ((base.axis 7).sample .low .low .high) = true := by decide +kernel

/-- Axis 5 in QUAD_X4, LINEAR, at a position. -/
def quadAt (p : Int) : State := axisAt base 5 quad p

/-- The four things a filtered sample can bring, at the edges of their ranges. -/
theorem witness_FilteredSampleCountsThenIndexes :
    (let u := (quadAt 2147483646).axis 5
     let v := u.sample .high .low .low
     u.filteredChange v = true ∧ u.decode v = .count .up ∧ ¬(u.z.filtered = .low ∧ v.z.filtered = .high)
       ∧ u.config.invert = false ∧ u.config.moves u.pos .up 2147483647 ∧ (quadAt 2147483646).noFollower 5)
      ∧ (let u := (axisAt base 5 (fun c => { quad c with invert := true, kind := .rotary, modulus := 2 }) 1).axis 5
         let v := u.sample .low .high .low
         u.filteredChange v = true ∧ u.decode v = .count .down ∧ u.config.moves u.pos .up 0)
      ∧ (let u := (quadAt (-2147483648)).axis 5
         let v := u.sample .low .high .low
         u.filteredChange v = true ∧ u.decode v = .count .down ∧ u.config.atLimit u.pos .down)
      ∧ (let u := (quadAt 0).axis 5
         let v := u.sample .high .high .low
         u.filteredChange v = true ∧ u.decode v = .phaseError ∧ ¬(u.z.filtered = .low ∧ v.z.filtered = .high)) := by
  decide +kernel

/-- The condition under which the index event of an axis passes its qualifier. -/
abbrev passes (v : AxisUnit) : Prop :=
  v.config.mode ≠ .off ∧ (v.config.indexQual = .either ∨ (v.config.indexQual = .up ∧ v.lastDir = some .up) ∨
    (v.config.indexQual = .down ∧ v.lastDir = some .down))

/-- The index clauses of FilteredSampleCountsThenIndexes, each with a configuration that meets it, without a count and with one. -/
theorem witness_FilteredSample_index :
    let unit := fun f => (axisAt base 0 f 0).axis 0
    let edge := fun u : AxisUnit => (u.sample .low .low .high).keepReference
    let meets := fun (u : AxisUnit) (m : IndexMode) =>
      u.decode (edge u) = .nothing ∧ u.z.filtered = .low ∧ (edge u).z.filtered = .high ∧ (edge u).config.indexMode = m
    (meets (unit id) .ignore ∧ ¬passes (edge (unit id)))
      ∧ (meets (unit fun c => { quad c with indexMode := .homeOnce, indexQual := .up }) .homeOnce
        ∧ ¬passes (edge (unit fun c => { quad c with indexMode := .homeOnce, indexQual := .up })))
      ∧ (meets (unit quad) .ignore ∧ passes (edge (unit quad)))
      ∧ ∀ m ∈ [IndexMode.latch, .homeOnce, .homeEvery],
        meets (unit fun c => { quad c with indexMode := m }) m ∧ passes (edge (unit fun c => { quad c with indexMode := m }))
          ∧ (let u := unit fun c => { quad c with indexMode := m, indexQual := .down }
             let v := u.sample .low .high .high
             u.decode v = .count .down ∧ u.z.filtered = .low ∧ v.z.filtered = .high ∧ u.config.moves u.pos .down (-1)) := by
  decide +kernel

/-- A TIMEBASE axis 2 whose time count ends now. -/
def timed (f : AxisConfig → AxisConfig) (p : Int) : State :=
  let s := axisAt base 2 (fun c => f { c with mode := .timebase }) p
  s.setAxis 2 { s.axis 2 with timeEnd := some 0 }

theorem witness_TimeCountRestartsAndCounts :
    (base.axis 2).timeEnd ≠ some base.tick
      ∧ (let s := timed id 2147483647
         (s.axis 2).timeEnd = some s.tick ∧ (s.axis 2).config.invert = false
           ∧ (s.axis 2).config.atLimit (s.axis 2).pos .up)
      ∧ (let s := timed (fun c => { c with invert := true }) (-2147483647)
         (s.axis 2).timeEnd = some s.tick ∧ (s.axis 2).config.invert = true
           ∧ (s.axis 2).config.moves (s.axis 2).pos .down (-2147483648) ∧ s.noFollower 2) := by decide +kernel

/-- A source axis 2 about to wrap, and axis 3 counting its wraps. -/
def wrapping (invert : Bool) : State :=
  axisAt (timed (fun c => { c with kind := .rotary, modulus := 2, invert := invert }) (if invert then 0 else 1)) 3
    (fun c => { c with mode := .revs, source := 2, invert := true }) 7

/-- The same with axis 4, LINEAR at its limit, counting the wraps of axis 3, which is ROTARY about to wrap, and a source in QUAD_X4. -/
def chained : State :=
  let s := axisAt (axisAt base 2 (fun c => { quad c with kind := .rotary }) 1) 3
    (fun c => { c with mode := .revs, source := 2, kind := .rotary, invert := true }) 0
  axisAt s 4 (fun c => { c with mode := .revs, source := 3 }) (-2147483648)

/-- Who gets a count in `chained` and in `wrapping`: each follower by the wrap of its source, in the wrap's direction. -/
theorem witness_CountReachesChainsOfRevsAxes :
    (∀ s ∈ [chained, wrapping true, wrapping false], s.axesLawful ∧ s.sourceOf 2 = none
      ∧ (∀ x b : Axis, s.sourceOf b = some x → s.chainMeets b 8 x = false))
      ∧ (let u := chained.axis 2
         let v := u.sample .high .low .low
         u.filteredChange v = true ∧ u.decode v = .count .up ∧ u.z.filtered = .low ∧ v.z.filtered = .low
           ∧ (u.sample .high .low .high).z.filtered = .high)
      ∧ chained.sourceOf 3 = some 2 ∧ (chained.axis 2).pos = ((chained.axis 2).config.modulus : Int) - 1
      ∧ chained.sourceOf 4 = some 3 ∧ (chained.axis 3).config.invert = true ∧ (chained.axis 3).pos = 0
      ∧ (chained.axis 4).limitFlag = false ∧ (chained.axis 4).config.atLimit (chained.axis 4).pos .down
      ∧ (∀ b : Bool, ((wrapping b).axis 2).timeEnd = some (wrapping b).tick ∧ (wrapping b).sourceOf 3 = some 2
        ∧ ((wrapping b).axis 2).pos = (if b then 0 else (((wrapping b).axis 2).config.modulus : Int) - 1)
        ∧ ((wrapping b).axis 3).config.moves ((wrapping b).axis 3).pos (if b then .up else .down) (if b then 8 else 6)) := by
  decide +kernel

/-- R11: the wrap of axis 2 takes axis 3 down to 1, and that wrap is refused by axis 4 with one report. -/
theorem test_chain_of_revs_axes :
    let t := after (.filteredSample 2 .high .low .low) chained
    (t.axis 2).pos = 0 ∧ (t.axis 3).pos = 1 ∧ (t.axis 3).lastDir = some .down ∧ (t.axis 4).pos = -2147483648
      ∧ (t.axis 4).limitFlag = true ∧ reports t = [.axisFault 4 .limit (-2147483648) 0 0] := by decide +kernel

theorem witness_AxisListIsSortedAndExact :
    (([markOn 0 3 .once .up 9, markOn 255 3 .once .up 4]).map (·.id)).Pairwise (· < ·) := by decide

theorem witness_PitchTargetsAlignAndAdvance :
    ∀ q ∈ [Qualifier.up, .down], (markOn 1 0 (.pitch 1 (some 1) (some 1)) q 2147483647).kind = .pitch 1 (some 1) (some 1)
      ∧ AxisConfig.reset.kind = .linear ∧ (2147483647 : Int) < 2147483647 + 1 ∧ (2147483647 : Int) - 1 ≤ 2147483647
      ∧ ({ AxisConfig.reset with kind := .rotary } : AxisConfig).kind = .rotary := by decide

theorem witness_CatchUpSkipsLeastTargets :
    let up := markOn 1 0 (.pitch 1 none none) .up 0
    let down := markOn 1 0 (.pitch 5 (some 2) (some 2)) .down 0
    (markOn 1 0 .once .up 0).kind = .once ∧ (markOn 1 0 (.repeating 2) .up 0).kind = .repeating 2
      ∧ up.kind = .pitch 1 none none ∧ up.qual = .up ∧ up.catchUp AxisConfig.reset (-1) = none
      ∧ (up.catchUp AxisConfig.reset 0).isSome = true ∧ down.qual = .down
      ∧ down.catchUp AxisConfig.reset (-9) = some ({ down with state := .spent, kind := .pitch 5 (some 2) (some 0) }, 2) := by
  decide +kernel

/-- `base` with one arrival waiting on axis 1. -/
def arriving (s : State) (x : Arrival) : State := s.setAxis 1 { s.axis 1 with arrivals := [x] }

/-- `base` in HOLD. -/
def holding : State := base.setRnc { state := .hold, cause := .host }

theorem witness_ArrivalWithoutFiringBandChecks :
    (let s := arriving base (.jump (-5) 3)
     s.quiet ∧ (s.axis 1).arrivals = .jump (-5) 3 :: [])
      ∧ (let s := arriving holding (.step 5 .down 3)
         s.quiet ∧ s.unpaused ∧ (s.axis 1).arrivals = .step 5 .down 3 :: [] ∧ s.rnc.state = .hold) := by decide +kernel

/-- Marks for an arrival of axis 1 at 5 UP: one fires and reports, one has the other direction, one rearms. -/
def threeMarks : State :=
  arriving (base.setMarks [markOn 2 1 .once .either 5, markOn 4 1 .once .down 5,
    { markOn 8 1 (.repeating 1) .up 4 with state := .rearming }]) (.step 5 .up 3)

theorem witness_StepArrivalFiresSelectedMarks :
    ∃ selected : Mark → Bool,
      (∀ m, selected m = true ↔ m.axis = 1 ∧ m.state = .armed ∧ m.target = 5 ∧
        (m.qual = .either ∨ (m.qual = .up ∧ Direction.up = .up) ∨ (m.qual = .down ∧ Direction.up = .down))) ∧
      (threeMarks.axis 1).arrivals = .step 5 .up 3 :: [] ∧ threeMarks.rnc.state = .run ∧ threeMarks.quiet
        ∧ threeMarks.unpaused ∧ threeMarks.marksLawful ∧ ∀ m ∈ threeMarks.mks.marks, selected m = true → m.actions = [] :=
  ⟨fun m => decide (m.axis = 1 ∧ m.state = .armed ∧ m.target = 5 ∧
      (m.qual = .either ∨ (m.qual = .up ∧ Direction.up = .up) ∨ (m.qual = .down ∧ Direction.up = .down))),
    fun _ => decide_eq_true_iff, by decide +kernel, by decide +kernel, by decide +kernel, by decide +kernel,
    by decide +kernel, by decide +kernel⟩

/-- A mark with one line entry at its arrival, on a line of the given owner. -/
def oneEntry (act : Action) (owner : Owner) : State :=
  arriving ((base.setMarks [{ markOn 255 1 .once .either 5 with report := false, actions := [act] }]).setLine 15
    { base.line 15 with owner := owner }) (.step 5 .up 3)

theorem witness_FiredMarkDrivesItsLine :
    ∀ act ∈ [Action.set 15 .high, .toggle 15, .pulse 15 .low 1], ∀ owner ∈ [Owner.host, .mark],
      let s := oneEntry act owner
      let m : Mark := { markOn 255 1 .once .either 5 with report := false, actions := [act] }
      (s.axis 1).arrivals = .step m.target .up 3 :: [] ∧ s.rnc.state = .run ∧ s.quiet ∧ s.unpaused ∧ s.mks.marks = [m] ∧ m.axis = 1
        ∧ m.state = .armed ∧ m.qual = .either ∧ m.report = false ∧ m.actions = [act] ∧ (s.line 15).pulse = none
        ∧ (s.line 15).owner = owner := by decide +kernel

/-- Marks of axis 1 at 5: the list of mark 2 disarms group 7 and arms it again, mark 4 is a member; the arrival UP is to pause after `n`
stages. -/
def staged (n : Nat) : State :=
  (arriving ((axisAt base 1 quad 5).setMarks
    [{ markOn 2 1 .once .up 5 with actions := [.disarmGroup 7, .armGroup 7] }, { markOn 4 1 .once .either 5 with group := 7 }])
    (.step 5 .up 3)).setPauses [some n]

/-- The same after its pause. -/
def pausedAt (n : Nat) : State := after (.stepArrival 1) (staged n)

theorem witness_IdleStepSchedulesOrTicks :
    (State.reset.pending = [] ∧ State.reset.dueEvents ++ State.reset.readyEvents ≠ [])
      ∧ base.pending = [] ∧ base.dueEvents ++ base.readyEvents = []
      ∧ (let s := (pausedAt 3).setPauses [some 0]
         s.pending = [] ∧ s.mks.arrival.isSome = true ∧ s.dueEvents ++ s.readyEvents = [])
      ∧ (pausedAt 3).mks.arrival.isSome = true ∧ (pausedAt 3).dueEvents ++ (pausedAt 3).readyEvents = [.stepArrival 1] := by
  decide +kernel

/-- Every kind of stage: the turn of 2, its two entries, its end, the turn of 4, which is passed over though ARMED again, the end. -/
theorem witness_StepArrivalGoesOnByStages :
    ((staged 3).pauses = some 3 :: [] ∧ (staged 3).mks.arrival = none ∧ ((staged 3).axis 1).arrivals = .step 5 .up 3 :: []
      ∧ (staged 3).marksLawful ∧ (staged 3).rnc.state = .run)
      ∧ ([0, 1, 2, 3, 4, 5, 6].map fun n => (pausedAt n).mks.arrival.map (·.fireList))
        = [some [2, 4], some [4], some [4], some [4], some [4], some [], none]
      ∧ ([0, 1, 2, 3, 4, 5].map fun n => (pausedAt n).mks.arrival.bind (·.firing))
        = [none, some 2, some 2, some 2, none, none]
      ∧ ([0, 1, 2, 3].map fun n => (pausedAt n).acu.map (·.index)) = [none, some 0, some 1, none]
      ∧ ((pausedAt 4).mark 4).map (·.state) = some .armed := by decide +kernel

/-- A paused arrival of axis 1, and events that meet it. -/
theorem witness_PausedArrivalEndsTheSame :
    (pausedAt 3).mks.arrival.map (·.axis) = some 1 ∧ (pausedAt 3).unpaused
      ∧ (pausedAt 3).settled.mks.marks.map (fun m => (m.id, m.state, m.fires)) = [(2, .spent, 1), (4, .armed, 0)]
      ∧ after (.jumpArrival 0) (pausedAt 3) = (pausedAt 3).settled ∧ after (.stepArrival 2) (pausedAt 3) = (pausedAt 3).settled
      ∧ completes (.pulseEnd 0) (pausedAt 3) = true ∧ takesWhole (.pulseEnd 0) = false := by
  decide +kernel

/-- A Capture Queue of `n` equal records. -/
def captures (n : Nat) : CaptureQueue :=
  { records := List.replicate n { source := .host, gap := false, tick := 5, mask := 0, positions := [] }
    overrun := false, gapPending := false, waitingNotice := decide (n ≠ 0) }

theorem witness_ActionEntriesAreCheckedAndTaken :
    (let l : Line := { base.line 0 with owner := .mark, pulse := some { level := .high, endTick := 9 } }
     ((base.setLine 0 l).line 0).owner = .mark ∧ ((base.setLine 0 l).line 0).pulse.isSome = true
       ∧ ((base.setLine 0 l).line 0).policy = .refuse)
      ∧ (base.line 0).owner = .host ∧ (base.line 0).pulse = none
      ∧ (∀ a : Axis, (0xFF : BitVec 8).getLsbD a.val = true → (base.axis a).config.mode = .off)
      ∧ (let s := quadAt 0
         (∃ a : Axis, (0x20 : BitVec 8).getLsbD a.val = true ∧ (s.axis a).config.mode ≠ .off)
           ∧ (s.setCpq (captures 127)).cpq.records.length < 128 ∧ 128 ≤ (s.setCpq (captures 128)).cpq.records.length
           ∧ (s.axis 4).config.mode = .off ∧ (s.axis 5).config.mode ≠ .off ∧ (s.axis 5).config.inRange 2147483648 = false
           ∧ (s.axis 5).config.inRange 2147483647 = true) := by decide +kernel

/-- The group entries within an arrival at 5 of axis 1, whose unit stands elsewhere. -/
theorem witness_ActionEntries_groups :
    let s := axisAt (pausedAt 3) 1 id 9
    s.marksLawful ∧ (s.mks.arrival.map fun r => (r.axis, r.reads)) = some (1, 5) ∧ (s.axis 1).pos = 9 := by decide +kernel

/-- One DISARMED and one ARMED member of group 15, and one SPENT member whose base is out of the range of axis 2. -/
def grouped : State :=
  (axisAt base 2 (fun c => { c with mode := .quadX1, kind := .rotary, modulus := 2 }) 0).setMarks
    [{ markOn 1 1 .once .up 5 with group := 15, state := .disarmed }, { markOn 2 1 .once .up 5 with group := 15 },
      { markOn 3 2 .once .up 5 with group := 15, state := .spent }]

theorem witness_GroupsReachExactlyTheirMembers :
    (∀ s ∈ [grouped, { grouped with rnc := holding.rnc }],
      let t := s.setMks { s.mks with groupArms := [15] }
      t.marksLawful ∧ t.mks.arrival = none ∧ t.mks.groupArms = 15 :: [])
      ∧ ∀ code ∈ [(0x24 : Byte), 0x25], (command grouped 9 [code, 16]).executes (entryOf [code, 16]) []
        ∧ (command grouped 9 [code, 15]).executes (entryOf [code, 15]) [] ∧ (15 : Byte).toNat = (15 : GroupNo).val
        ∧ 16 ≤ (16 : Byte).toNat := by decide +kernel

/-- The Report Queue with its timer ending at `t`. -/
def timing (retries : Nat) (t : Tick) : State := base.setRpq { base.rpq with retries := retries, ackTimer := some t }

theorem witness_TimersActAtTheirEndTick :
    (let l : Line := { base.line 15 with level := .low, pulse := some { level := .low, endTick := 0 } }
     ((base.setLine 15 l).line 15).pulse = some { level := .low, endTick := base.tick }
       ∧ ∀ p ∈ (base.line 15).pulse, p.endTick ≠ base.tick)
      ∧ base.rpq.ackTimer ≠ some base.tick
      ∧ ((timing 3 0).rpq.ackTimer = some (timing 3 0).tick ∧ (timing 3 0).rpq.retries < (timing 3 0).cmi.params.retryLimit)
      ∧ ((timing 4 0).rpq.ackTimer = some (timing 4 0).tick ∧ (timing 4 0).cmi.params.retryLimit ≤ (timing 4 0).rpq.retries)
      ∧ ((after .hold base).cmi.beaconTimer ≠ some (after .hold base).tick)
      ∧ (let s := { State.reset with tick := 5000000 }
         s.cmi.beaconTimer = some s.tick ∧ s.cmi.session ≠ .opened) := by decide +kernel

theorem witness_SetAndToggleCancelPulses :
    let l : Line :=
      { owner := .mark, safe := .low, policy := .refuse, level := .high, pulse := some { level := .high, endTick := 9 }
        collisions := 65535 }
    l.level = .high ∧ l.pulse = some { level := .high, endTick := 9 }
      ∧ ∀ r ∈ [LineRequest.set .low, .toggle],
        l.request l.owner r 3 = .taken { l with level := .low, pulse := none } := by decide

/-- Strobe 7 with a configuration and a present level. -/
def strobed (s : State) (edges : EdgeSelect) (q : Nat) (l : Level) (g : Option GroupNo) : State :=
  s.setStrobe 7 { s.strobe 7 with config := { edges := edges, qual := q, mask := 0x81, armGroup := g }, level := l }

theorem witness_StrobeEdgeStartsOrDropsQualification :
    (let b := (strobed base .falling 1 .low none).strobe 7
     b.level = .low ∧ ¬(b.config.edges = .both ∨ (b.config.edges = .rising ∧ Edge.rising = .rising) ∨
       (b.config.edges = .falling ∧ Edge.rising = .falling)))
      ∧ (let b := (strobed base .falling 1 .high none).strobe 7
         b.level = .high ∧ (b.config.edges = .falling ∧ Edge.falling = .falling) ∧ 0 < b.config.qual) := by decide +kernel

theorem witness_StrobeEventOffersCaptureAndArms :
    (let s := strobed (base.setCpq (captures 127)) .both 0 .low (some 15)
     (s.strobe 7).record = none ∧ (s.strobe 7).config.qual = 0 ∧ (s.strobe 7).config.edges = .both
       ∧ (s.strobe 7).level = .low ∧ s.cpq.records.length < 128)
      ∧ (base.strobe 7).record = none
      ∧ (let s := (base.setCpq (captures 128)).setStrobe 7
            { base.strobe 7 with record := some { edge := .falling, tick := 2, positions := [], endTick := 0 } }
         ∃ r, (s.strobe 7).record = some r ∧ r.endTick = s.tick ∧ 128 ≤ s.cpq.records.length) :=
  ⟨by decide +kernel, by decide +kernel, _, rfl, by decide +kernel, by decide +kernel⟩

/-- `n` unsent records of one kind. -/
def unsent (n : Nat) : List ReportRecord :=
  List.replicate n { body := .runState .run .host 0, send := .unsent, created := 0 }

theorem witness_ReportIsMaskedAbsorbedAppendedOrOverflows :
    (Report.axisFault 0 .limit 0 0 0).kind.enabled 0 = false ∧ (Report.runState .run .host 0).kind.enabled 0 = true
      ∧ ((unsent 62).getLast?.any (·.freshOverflow) = false ∧ (unsent 62).length < 63)
      ∧ ((unsent 63).getLast?.any (·.freshOverflow) = false ∧ 63 ≤ (unsent 63).length)
      ∧ ({ ReportQueue.reset with
          records := unsent 63 ++ [{ body := .overflow 65535 0 0, send := .unsent, created := 0 }] } : ReportQueue).records
        = unsent 63 ++ [{ body := .overflow 65535 0 0, send := .unsent, created := 0 }] := by decide +kernel

/-- Eight sent records around the wrap of the sequence numbers, one unsent. -/
def sentEight : ReportQueue :=
  { ReportQueue.reset with
    records := ([252, 253, 254, 255, 0, 1, 2, 3].map fun n : Byte =>
      ({ body := .runState .run .host 0, send := .awaiting n, created := 0 } : ReportRecord)) ++ unsent 1
    nextSeq := 4, ackTimer := some 9 }

theorem witness_AckRemovesTheAcknowledged :
    sentEight.lawful ∧ sentEight.sentCount = 8
      ∧ ∀ x ∈ [((252 : Byte), 0), (253, 1), (4, 8), (5, 9)],
        x.2 = (x.1 - (sentEight.nextSeq - BitVec.ofNat 8 sentEight.sentCount)).toNat := by decide +kernel

/-- `base` with ACK_TIMEOUT signals and an exhausted flag. -/
def signalled (n : Nat) (e : Bool) : State := base.setRpq { base.rpq with signals := n, exhausted := e }

theorem witness_SessionLossEntersHold :
    (∀ b ∈ [base, pausedAt 3], let s := b.setCmi { base.cmi with silenceTimer := some 0 }
     s.cmi.session = .opened ∧ s.cmi.silenceTimer = some s.tick)
      ∧ base.cmi.silenceTimer ≠ some base.tick
      ∧ ((signalled 1 true).rpq.signals = 0 + 1 ∧ (signalled 1 true).cmi.session = .opened
        ∧ (signalled 1 true).rpq.exhausted = true)
      ∧ ((signalled 2 false).rpq.signals = 1 + 1 ∧ (signalled 2 false).rpq.exhausted = false) ∧ base.rpq.signals = 0 := by
  decide +kernel

theorem witness_SyncOpensSession :
    let e : Entry := { kind := .sync, seq := 0, payload := [] }
    ∀ epoch ∈ [(0 : Byte), 254, 255],
      let s : State := { base with lrx := { base.lrx with inbound := [e] }, cmi := { base.cmi with epoch := epoch } }
      s.lrx.inbound = e :: [] ∧ e.kind = .sync ∧ s.ltx.slot = none := by decide +kernel

theorem witness_CommandsNotExecutedOrRepeated :
    (∀ x ∈ [Session.noSession, .lost], let s := command (base.setCmi { base.cmi with session := x }) 9 [0x08]
      s.commandReady (entryOf [0x08]) [] ∧ s.cmi.session = x)
      ∧ (let r : Reply := { seq := 9, payload := [0x01, 0] }
         let s := command (base.setCmi { base.cmi with cache := some r }) 9 [0x08]
         s.commandReady (entryOf [0x08]) [] ∧ s.cmi.session = .opened ∧ s.cmi.cache = some r ∧ r.seq = (entryOf [0x08]).seq) := by
  decide +kernel

theorem witness_CommandLengthsAreChecked :
    (∀ p ∈ [[(0x02 : Byte), 0], [0x10], [0x22], [0x22, 33], [0x23, 0, 1], [0x20], [0x20, 1], [], [0x0A], [0xFF, 1],
        0x01 :: List.replicate 239 0], (command base 9 p).executes (entryOf p) [])
      ∧ (entryOf [0x02, 0]).payload.length ≠ 1 ∧ (entryOf [0x22, 33]).payload.length ≠ 2 + (33 : Byte).toNat
      ∧ (entryOf [0x20, 1]).payload.length ≠ 20 + 7 * ([(1 : Byte)].getD 18 0).toNat
      ∧ 238 < (List.replicate 239 (0 : Byte)).length ∧ commandOf 0x0A = none ∧ commandOf 0xFF = none := by decide +kernel

theorem witness_ReadingCommandsAnswer :
    (∀ p ∈ [0x01 :: List.replicate 238 0, [(0x02 : Byte)], [0x04], [0x27, 255], [0x28, 7, 255], [0x28, 8, 0]],
      (command base 9 p).executes (entryOf p) []) ∧ (List.replicate 238 (0 : Byte)).length ≤ 238
      ∧ (7 : Byte).toNat = (7 : Axis).val := by decide +kernel

theorem witness_LinkServiceCommands :
    (∀ p ∈ [[(0x03 : Byte), 0, 0, 2, 0, 15, 8], [0x03, 20, 0, 0xE8, 3, 0, 1], [0x03, 19, 0, 2, 0, 0, 1], [0x05, 1], [0x05, 2],
        [0x06, 0xFE, 0x03], [0x06, 1, 0], [0x06, 0, 4], [0x07]], (command base 9 p).executes (entryOf p) [])
      ∧ le16 0 0 = 0 ∧ (20 ≤ le16 20 0 ∧ le16 20 0 ≤ 60000) ∧ le16 2 0 = 2 ∧ le16 0xE8 3 = 1000 ∧ le16 19 0 = 19
      ∧ (∀ k < 16, (0x03FE : BitVec 16).getLsbD k = true → 1 ≤ k ∧ k ≤ 9) ∧ (0x0001 : BitVec 16).getLsbD 0 = true
      ∧ (0x0400 : BitVec 16).getLsbD 10 = true := by decide +kernel

theorem witness_RunAndHoldEnter :
    (∀ s ∈ [base, holding], ∀ p ∈ [[(0x08 : Byte)], [0x09]], (command s 9 p).executes (entryOf p) [])
      ∧ base.rnc.state = .run ∧ holding.rnc.state = .hold
      ∧ (holding.setMarks [markOn 0 0 (.pitch 3 none none) .up 0, markOn 9 0 .once .up 0]).marksLawful := by decide +kernel

/-- The operands of CONFIG_AXIS for axis 0 as fields: a mode, a source, modulus 2, every other field plain. -/
def fieldsOf (mode source : Byte) (kind : Byte) : AxisFields :=
  { mode, invert := 0, kind, modulus := 2, filter := 15, divisor := 65535, source, indexMode := 0, indexQual := 3,
    indexPreset := 0, initial := 1 }

/-- The CONFIG_AXIS that carries them. -/
def configBytes (f : AxisFields) : List Byte :=
  [0x10, 0, f.mode, f.invert, f.kind, 2, 0, 0, 0, 15, 0xFF, 0xFF, f.source, f.indexMode, f.indexQual, 0, 0, 0, 0, 1, 0, 0, 0]

/-- Axis 1 a ROTARY quadrature axis, axis 0 a ROTARY one, and axis 2 counting the wraps of axis 0. -/
def sourced : State :=
  axisAt (axisAt (axisAt base 1 (fun c => { quad c with kind := .rotary }) 0) 0 (fun c => { quad c with kind := .rotary }) 0) 2
    (fun c => { c with mode := .revs, source := 0 }) 0

/-- Each outcome of CONFIG_AXIS of axis 0: a bad field, a source that does not fit, IN_USE, AXIS_BUSY, accepted. -/
theorem witness_ConfigAxisReplacesRecord :
    (∀ f ∈ [fieldsOf 8 0 0, fieldsOf 7 1 1, fieldsOf 0 0 0, fieldsOf 7 2 1],
      (command sourced 9 (configBytes f)).executes (entryOf (configBytes f)) [] ∧ f.modulus = le32 2 0 0 0
        ∧ f.filter = (15 : Byte).toNat ∧ f.divisor = le16 0xFF 0xFF ∧ f.indexPreset = leInt 0 0 0 0
        ∧ f.initial = leInt 1 0 0 0)
      ∧ (fieldsOf 8 0 0).config = none
      ∧ ((fieldsOf 7 2 1).config.map fun c => (c.mode, c.source)) = some (.revs, 2) ∧ (sourced.axis 2).config.kind ≠ .rotary
      ∧ ((fieldsOf 0 0 0).config.map (·.mode)) = some .off ∧ sourced.countsWrapsOf 0 2 = true
      ∧ ((fieldsOf 7 1 1).config.map fun c => (c.mode, c.kind, c.source)) = some (.revs, .rotary, 1)
      ∧ (sourced.axis 1).config.kind = .rotary ∧ (sourced.axis 1).config.mode ≠ .off
      ∧ (sourced.setMarks [markOn 0 0 .once .up 0]).mks.marks.any (fun m => decide (m.axis = 0) && m.active) = true
      ∧ (∀ m ∈ sourced.mks.marks, m.axis = 0 → m.active = false) := by decide +kernel

theorem witness_ConfigAxis_chain : ¬sourced.sourceChainMeets 1 0 ∧ sourced.sourceChainMeets 2 0 :=
  ⟨fun h => absurd ((State.chainMeets_iff sourced 0 1).mpr h) (by decide +kernel),
    (State.chainMeets_iff sourced 0 2).mp (by decide +kernel)⟩

theorem witness_AxisFieldsAreChecked :
    (∀ b ∈ [(0 : Byte), 7], (AxisMode.ofByte b).isSome = true) ∧ (fieldsOf 0 0 0).config.isSome = true
      ∧ 7 < (8 : Byte).toNat ∧ (fieldsOf 6 0 1).config.isSome = true ∧ ({ fieldsOf 6 0 1 with initial := 2 } : AxisFields).config = none := by
  decide +kernel

/-- Axis 5 ROTARY with modulus 2. -/
def rotaryAt : State := axisAt base 5 (fun c => { quad c with kind := .rotary }) 1

theorem witness_PresetAndHomeAxis :
    (∀ code ∈ [(0x11 : Byte), 0x14], ∀ p ∈ [[code, 8, 0, 0, 0, 0], [code, 7, 0, 0, 0, 0], [code, 5, 2, 0, 0, 0], [code, 5, 1, 0, 0, 0]],
      (command rotaryAt 9 p).executes (entryOf p) [])
      ∧ (rotaryAt.axis 7).config.mode = .off ∧ (rotaryAt.axis 5).config.mode ≠ .off
      ∧ (rotaryAt.axis 5).config.inRange (leInt 2 0 0 0) = false ∧ (rotaryAt.axis 5).config.inRange (leInt 1 0 0 0) = true := by
  decide +kernel

theorem witness_ReadAxesAndClearFault :
    ∀ p ∈ [[(0x12 : Byte), 0, 1], [0x12, 1, 2], [0x12, 0x80, 0], [0x12, 0xFF, 1], [0x13, 0], [0x13, 0x80]],
      (command base 9 p).executes (entryOf p) [] := by decide +kernel

/-- A DEFINE_MARK of id 255 on axis 0 with a group and no entries, and its fields. -/
def defineBytes (group : Byte) : List Byte := [0x20, 255, 0, 1, 3, 5, 0, 0, 0, group, 1, 0, 0, 0, 0, 0, 0, 0, 0, 0]

@[inherit_doc defineBytes]
def defineFields (group : Byte) : MarkFields :=
  { axis := 0, kind := 1, qual := 3, base := 5, group := group, report := 1, band := 0, step := 0, count := 0
    entryCount := 0, entries := [] }

/-- Mark 255 in a state. -/
def with255 (st : MarkState) : State := base.setMarks [{ markOn 255 0 .once .either 5 with state := st }]

theorem witness_DefineAndDeleteMark :
    (∀ s ∈ [base, with255 .armed, with255 .spent], ∀ p ∈ [defineBytes 15, defineBytes 16, [(0x21 : Byte), 255]],
      (command s 9 p).executes (entryOf p) [])
      ∧ (defineFields 16).mark (markOf 255) (fun a => (base.axis a).config) = none
      ∧ ((defineFields 15).mark (markOf 255) (fun a => (base.axis a).config)).isSome = true
      ∧ (defineFields 15).base = leInt 5 0 0 0 ∧ (defineFields 15).band = le16 0 0 ∧ (defineFields 15).step = le32 0 0 0 0
      ∧ base.mark (markOf 255) = none ∧ ((with255 .armed).mark (markOf 255)).map (·.state) = some .armed
      ∧ ((with255 .spent).mark (markOf 255)).map (·.state) = some .spent := by decide +kernel

/-- One entry of every kind, in two lists, accepted on a ROTARY axis of modulus 2; and the same list with a width of 0. -/
theorem witness_MarkFieldsAreChecked :
    let fields := fun entries : List Byte =>
      ({ axis := 5, kind := 3, qual := 2, base := 1, group := 15, report := 0, band := 0, step := 1, count := 65535
         entryCount := entries.length / 7, entries := entries } : MarkFields)
    let config := fun a => (rotaryAt.axis a).config
    let first : List Byte := [1, 15, 1, 0x40, 0x42, 0x0F, 0, 2, 0, 0, 9, 9, 9, 9, 3, 15, 9, 9, 9, 9, 9, 4, 0x80, 0, 0, 0, 0, 0]
    let second : List Byte := [5, 7, 0, 0xFF, 0xFF, 0xFF, 0xFF, 6, 15, 0, 0, 0, 0, 0, 7, 0, 0, 0, 0, 0, 0]
    (∀ x ∈ [first, second], (fields x).entries.length = 7 * (fields x).entryCount ∧ ((fields x).mark 9 config).isSome = true)
      ∧ ((fields second).mark 9 config).map (·.actions) = some [.preset 7 (-1), .armGroup 15, .disarmGroup 0]
      ∧ (fields [1, 15, 1, 0, 0, 0, 0]).mark 9 config = none := by decide +kernel

/-- Every clause of the arming of one mark: its kinds on a LINEAR and on a ROTARY axis, in and out of range. -/
theorem witness_ArmAndDisarmMarks :
    (∀ code ∈ [(0x22 : Byte), 0x23], ∀ p ∈ [[code, 0], [code, 1, 255], code :: 32 :: List.replicate 32 0,
        code :: 33 :: List.replicate 33 0], (command base 9 p).executes (entryOf p) [])
      ∧ (List.replicate 32 (0 : Byte)).length = (32 : Byte).toNat
      ∧ (let m := fun (kind : MarkKind) (a : Axis) (p : Int) => { markOn 9 a kind .up p with state := .disarmed }
         let kinds := [MarkKind.once, .repeating 1, .pitch 1 none none, .pitch 2 none none]
         ∀ k ∈ kinds, ∀ a ∈ [(5 : Axis), 6], ∀ p ∈ [(1 : Int), 2],
           ((rotaryAt.setMarks [m k a p]).mark 9) = some (m k a p) ∧ (m k a p).active = false)
      ∧ (rotaryAt.axis 5).config.inRange 1 = true ∧ (rotaryAt.axis 5).config.inRange 2 = false
      ∧ (rotaryAt.axis 5).config.modulus ≤ 2 ∧ (rotaryAt.axis 6).config.kind = .linear
      ∧ alignedTarget .up 1 1 2147483646 = 2147483647 ∧ alignedTarget .up 1 1 2147483647 = 2147483648
      ∧ (with255 .armed).mark 255 = some { markOn 255 0 .once .either 5 with state := .armed } ∧ base.mark 255 = none := by
  decide +kernel

/-- A mark of axis 5 (ROTARY) or 6 (LINEAR) to move. -/
def movable (a : Axis) (st : MarkState) (p : Int) : State :=
  rotaryAt.setMarks [{ markOn 7 a (.repeating 1) .either p with state := st }]

theorem witness_MoveMarkShiftsTarget :
    (∀ s ∈ [base, movable 6 .spent 0, movable 5 .armed 1, movable 6 .rearming 2147483646],
      ∀ p ∈ [[(0x26 : Byte), 7, 2, 0, 0, 0, 0], [0x26, 7, 0, 2, 0, 0, 0], [0x26, 7, 1, 1, 0, 0, 0], [0x26, 7, 1, 2, 0, 0, 0]],
        (command s 9 p).executes (entryOf p) [])
      ∧ base.mark (markOf 7) = none ∧ ((movable 6 .spent 0).mark (markOf 7)).map (·.state) = some .spent
      ∧ ((movable 5 .armed 1).axis 5).config.kind = .rotary ∧ (((movable 5 .armed 1).axis 5).config.modulus : Int) ≤ leInt 2 0 0 0
      ∧ (2147483646 : Int) + leInt 1 0 0 0 = 2147483647 ∧ (2147483647 : Int) < 2147483646 + leInt 2 0 0 0 := by decide +kernel

/-- Line 15 with an owner, a policy and a pulse in flight or none. -/
def lined (o : Owner) (p : Policy) (pulse : Option Pulse) : State :=
  base.setLine 15 { base.line 15 with owner := o, policy := p, pulse := pulse }

theorem witness_ConfigLineAndReadLines :
    (∀ p ∈ [[(0x30 : Byte), 16, 0, 0, 0], [0x30, 15, 2, 0, 0], [0x30, 15, 1, 1, 1], [0x32, 2], [0x32, 0], [0x32, 1]],
      (command (lined .host .refuse (some { level := .high, endTick := 10000000 })) 9 p).executes (entryOf p) [])
      ∧ (let s := lined .host .refuse (some { level := .high, endTick := 0 })
         ∃ p ∈ (s.line 15).pulse, p.endTick = s.tick ∧ (p.endTick - s.tick).toNat ≤ 10000000)
      ∧ (let s := lined .host .refuse (some { level := .high, endTick := 10000000 })
         ∃ p ∈ (s.line 15).pulse, p.endTick ≠ s.tick ∧ (p.endTick - s.tick).toNat ≤ 10000000) :=
  ⟨by decide +kernel, ⟨_, rfl, by decide +kernel⟩, _, rfl, by decide +kernel⟩

/-- A session whose silence timer is due, an arrival in progress or none, with a SYNC and a SET of line 15 to HIGH waiting or the SET alone. -/
def silent (b : State) (sync : Bool) : State :=
  { b with
    cmi := { base.cmi with silenceTimer := some b.tick }
    lrx := { b.lrx with
      inbound := (if sync then [{ kind := .sync, seq := 0, payload := [] }] else [])
        ++ [{ kind := .command, seq := 9, payload := [0x31, 15, 1, 1, 0, 0, 0, 0] }] } }

/-- R92: a DRIVE_LINE taken before a session loss is overridden; taken in HOLD after the loss, behind the SYNC, it acts. -/
theorem test_drive_line_around_a_session_loss :
    let first := after .silenceTimerExpiry (after .driveLine (silent base false))
    let last := after .driveLine (after .sync (after .silenceTimerExpiry (silent base true)))
    (first.line 15).level = .low ∧ replied first = [0x31, 0, 1, 0, 0, 0, 0]
      ∧ (last.line 15).level = .high ∧ replied last = [0x31, 0, 1, 0, 0, 0, 0]
      ∧ last.rnc = { state := .hold, cause := .linkSilent } := by decide +kernel

theorem witness_DriveLineActsOnHostLines :
    (∀ s ∈ [lined .mark .refuse none, lined .host .refuse none, lined .host .restart (some { level := .high, endTick := 9 }),
        lined .host .refuse (some { level := .high, endTick := 9 })],
      ∀ p ∈ [[(0x31 : Byte), 16, 2, 0, 0, 0, 0, 0], [0x31, 15, 0, 0, 0, 0, 0, 0], [0x31, 15, 4, 0, 0, 0, 0, 0],
          [0x31, 15, 1, 2, 0, 0, 0, 0], [0x31, 15, 3, 1, 0, 0, 0, 0], [0x31, 15, 3, 1, 0x41, 0x42, 0x0F, 0],
          [0x31, 15, 1, 1, 0, 0, 0, 0], [0x31, 15, 2, 0xFF, 0xFF, 0xFF, 0xFF, 0xFF], [0x31, 15, 3, 1, 0x40, 0x42, 0x0F, 0],
          [0x31, 15, 3, 0, 1, 0, 0, 0]],
        (command s 9 p).executes (entryOf p) [])
      ∧ le32 0x40 0x42 0x0F 0 = 1000000 ∧ le32 0x41 0x42 0x0F 0 = 1000001 ∧ le32 1 0 0 0 = 1
      ∧ ((lined .mark .refuse none).line 15).owner = .mark ∧ ((lined .host .refuse none).line 15).pulse = none
      ∧ ((lined .host .restart (some { level := .high, endTick := 9 })).line 15).policy = .restart
      ∧ (∀ b ∈ [base, pausedAt 3],
        (silent b false).executes (entryOf [0x31, 15, 1, 1, 0, 0, 0, 0]) []
          ∧ (silent b false).cmi.silenceTimer = some (silent b false).tick
          ∧ (silent b true).cmi.session = .opened ∧ (silent b true).cmi.silenceTimer = some (silent b true).tick
          ∧ (silent b true).ltx.slot = none
          ∧ (silent b true).lrx.inbound
              = [{ kind := .sync, seq := 0, payload := [] }, entryOf [0x31, 15, 1, 1, 0, 0, 0, 0]]) := by decide +kernel

theorem witness_ConfigAndReadStrobes :
    (∀ p ∈ [[(0x40 : Byte), 8, 0, 0, 0, 0, 0], [0x40, 7, 4, 0, 0, 0, 0], [0x40, 7, 3, 0xE9, 3, 0, 0], [0x40, 7, 3, 0, 0, 0, 16],
        [0x40, 7, 3, 0xE8, 3, 0xFF, 15], [0x40, 0, 0, 0, 0, 0, 0xFF], [0x41, 2], [0x41, 1]],
      (command base 9 p).executes (entryOf p) [])
      ∧ le16 0xE8 3 = 1000 ∧ le16 0xE9 3 = 1001 ∧ (3 : Byte).toNat = EdgeSelect.both.code := by decide +kernel

theorem witness_CaptureNowAndReadCaptures :
    (∀ s ∈ [base.setCpq (captures 127), base.setCpq (captures 128)],
      ∀ p ∈ [[(0x42 : Byte), 0xFF], [0x43, 0], [0x43, 33], [0x43, 1], [0x43, 32]], (command s 9 p).executes (entryOf p) [])
      ∧ (captures 127).records.length < 128 ∧ 128 ≤ (captures 128).records.length := by decide +kernel

theorem witness_FlushCapturesEmptiesQueue :
    ∀ p ∈ [[(0x44 : Byte)], [0x44, 0]],
      (command (base.setCpq (captures 128)) 9 p).executes (entryOf p) []
        ∧ (command (base.setCpq (captures 128)) 9 p).capturesLawful := by decide +kernel

theorem witness_MarkRecordCanBeCopiedBack :
    let m : Mark := { markOn 255 7 (.pitch 16777215 (some 65535) (some 1)) .down (-2147483648) with
      actions := [.pulse 15 .high 1000000, .snapshot 1, .preset 7 (-2147483648), .disarmGroup 15] }
    AxisConfig.reset.inRange m.base = true ∧ m.actions.length ≤ 4
      ∧ (∀ act ∈ m.actions, match act with
        | .pulse _ _ w => 1 ≤ w ∧ w ≤ 1000000
        | .snapshot mask => mask ≠ 0
        | .preset _ v => -2147483648 ≤ v ∧ v ≤ 2147483647
        | _ => True)
      ∧ m.qual ≠ .either := by
  refine ⟨by decide +kernel, by decide, ?_, by decide⟩
  simp

/-- A watching receiver with a full inbound queue. -/
def crowded : State := { watching with lrx := { watching.lrx with inbound := List.replicate 4 (entryOf [0x01]) } }

theorem witness_FramesAreReceivedWholeOrDropped :
    (∀ s ∈ [watching, crowded], s.lrx.line = .watching ∧ s.lrx.state = .hunt ∧ s.lrx.lawful)
      ∧ (List.replicate 240 (0xC3 : Byte)).length ≤ 240 ∧ watching.lrx.inbound.length < 4 ∧ crowded.lrx.inbound.length = 4
      ∧ ((0x04 : Byte) ≠ 0x01 ∧ (0x04 : Byte) ≠ 0x02 ∧ (0x04 : Byte) ≠ 0x03)
      ∧ putBits16 (crcOf [0x03, 0, 0]) ≠ [0x12, 0x34] ∧ watching.cmi.session = .opened ∧ watching.cmi.params.silence ≠ 0
      ∧ ((frameBytes 2 9 []).map fun b => (b, decide (b = 2))).map Prod.fst = frameBytes 2 9 [] := by decide +kernel

/-- R139, R142: a frame whose characters each follow a confirmed start bit leaves what the characters alone leave. -/
theorem test_frame_with_start_bits :
    let frame := frameBytes commandCode 17 [0x01, 0xC3, 0x07]
    (match deliver (frame.map fun b => (b, true)) watching with
      | .next t => decide (t = receive watching frame)
      | _ => false) = true
      ∧ (receive watching frame).cmi.silenceTimer = some 20000000 := by decide +kernel

/-- The receiver states that the clauses of Table 9-1 name. -/
theorem witness_ReceiverEventsFollowTable :
    base.lrx.line = .waitHigh ∧ (watching.lrx.line ≠ .waitHigh ∧ watching.lrx.state = .hunt)
      ∧ (∀ k ∈ [0, 1, 2], let s := receive watching (0xC3 :: List.replicate k 0x02)
        s.lrx.line ≠ .waitHigh ∧ s.lrx.state = .header ∧ s.lrx.buffer.headerCount = k ∧ s.lrx.gapTimer.isSome = true)
      ∧ (receive watching [0xC3, 1, 0, 1]).lrx.state = .payload
      ∧ (∀ k ∈ [0, 1], let s := receive watching (0xC3 :: 1 :: 0 :: 0 :: List.replicate k 0)
        s.lrx.state = .check ∧ s.lrx.buffer.crcCount = k)
      ∧ (∀ kind ∈ [(1 : Byte), 2, 3, 4], ∀ inbound ∈ [watching.lrx.inbound, crowded.lrx.inbound],
        let body := kind :: 0 :: 0 :: []
        let crc := crcOf body
        let s := receive { watching with lrx := { watching.lrx with inbound := inbound } } (0xC3 :: body ++ [crc.setWidth 8])
        s.lrx.line ≠ .waitHigh ∧ s.lrx.state = .check ∧ s.lrx.buffer.crcCount = 1 ∧ s.lrx.buffer.mark = false
          ∧ s.lrx.buffer.running = crc ∧ s.lrx.buffer.kind = kind
          ∧ crc.toNat = s.lrx.buffer.received.toNat % 256 + 256 * ((crc >>> 8).setWidth 8 : Byte).toNat)
      ∧ (receive watching [0xC3]).lrx.gapTimer = some 0 ∧ ((17361 : Tick) - 0).toNat * 115200 < 200 * 10000000
      ∧ 200 * 10000000 ≤ ((17362 : Tick) - 0).toNat * 115200 ∧ base.lrx.gapTimer = none
      ∧ (240 : Byte).toNat ≤ 240 ∧ 240 < (241 : Byte).toNat := by decide +kernel

/-- `base` with records to send. -/
def queued (records : List ReportRecord) : State := base.setRpq { base.rpq with records := records }

theorem witness_TransmitterTakesInOrder :
    (∀ s ∈ [base, State.reset, queued (unsent 1), base.setRpq sentEight], s.ltx.sending = none ∧ s.ltx.slot = none)
      ∧ base.ltx.helloPending = false ∧ State.reset.ltx.helloPending = true ∧ base.cmi.session = .opened
      ∧ base.rpq.exhausted = false ∧ (queued (unsent 1)).cmi.params.window = 8
      ∧ sentEight.records = sentEight.records.take 8 ++ { body := .runState .run .host 0, send := .unsent, created := 0 } :: []
      ∧ (sentEight.records.take 8).length = 8 ∧ (∀ x ∈ sentEight.records.take 8, x.send.sent = true ∧ x.send.resending = false)
      ∧ (sendingKind base .reply).ltx.slot.isSome = true := by decide +kernel

theorem witness_OnlyTheirCommandsOpenAndRun :
    (exec .run (command holding 9 [0x08]) = .next (after .run (command holding 9 [0x08]))
      ∧ holding.rnc.state = .hold ∧ (after .run (command holding 9 [0x08])).rnc.state = .run)
      ∧ (let e : Entry := { kind := .sync, seq := 0, payload := [] }
         let s : State := { base with lrx := { base.lrx with inbound := [e] }, cmi := { base.cmi with session := .lost } }
         exec .sync s = .next (after .sync s) ∧ s.cmi.session = .lost ∧ (after .sync s).cmi.session = .opened)
      ∧ (exec .txTakeFrame (queued (unsent 1)) = .next (after .txTakeFrame (queued (unsent 1)))
        ∧ (after .txTakeFrame (queued (unsent 1))).ltx.sending.map (·.frame.kind) = some .report)
      ∧ (let s := command (lined .host .refuse none) 9 [0x30, 15, 1, 1, 1]
         exec .configLine s = .next (after .configLine s) ∧ (s.line 15).owner = .host
          ∧ ((after .configLine s).line 15).owner = .mark) :=
  ⟨⟨next_after (by decide +kernel), by decide +kernel⟩, ⟨next_after (by decide +kernel), by decide +kernel⟩,
    ⟨next_after (by decide +kernel), by decide +kernel⟩, next_after (by decide +kernel), by decide +kernel⟩

theorem witness_MarksFireOnlyAtStepArrivalsInRun :
    exec (.stepArrival 1) threeMarks = .next (after (.stepArrival 1) threeMarks) ∧ threeMarks.axesLawful ∧ threeMarks.marksLawful
      ∧ threeMarks.arrivalLawful
      ∧ (threeMarks.mark 2).map (·.fires) = some 0
      ∧ ((after (.stepArrival 1) threeMarks).mark 2).map (fun m => (m.fires, m.lastFire)) = some (1, some 3) :=
  ⟨next_after (by decide +kernel), by decide +kernel⟩

/-- A SPENT PITCH mark on axis 6, and the ARM_MARKS that arms it. -/
def spentPitch : State :=
  command (rotaryAt.setMarks [{ markOn 7 6 (.pitch 1 (some 4) (some 0)) .up 5 with state := .spent }]) 9 [0x22, 1, 7]

theorem witness_RemainingCountRisesOnlyToBaseCount :
    exec .armMarks spentPitch = .next (after .armMarks spentPitch) ∧ spentPitch.axesLawful ∧ spentPitch.marksLawful
      ∧ spentPitch.arrivalLawful
      ∧ (spentPitch.mark 7).bind (·.kind.remaining) = some 0
      ∧ ((after .armMarks spentPitch).mark 7).bind (·.kind.remaining) = some 4 :=
  ⟨next_after (by decide +kernel), by decide +kernel⟩

theorem witness_FieldsAndRecordsAreLaidOut :
    65535 < 65536 ∧ 4294967295 < 4294967296 ∧ (-2147483648 : Int) ≤ 2147483647
      ∧ ((2147483648 : Nat) : Int) = -2147483648 + 4294967296
      ∧ (7 : Byte).toNat < 8 ∧ (7 : Byte).getLsbD 1 = true ∧ (7 : Byte).getLsbD 2 = decide (Edge.falling = .falling)
      ∧ (2 : Byte).getLsbD 2 = decide (Edge.rising = .falling) ∧ (1 : Byte).getLsbD 1 = false := by decide

/-- Table 11-6, byte by byte: an ARMED PITCH mark with one action. -/
theorem test_mark_record_bytes :
    putMark 7 (some { markOn 7 3 (.pitch 256 (some 2) (some 1)) .down (-2) with report := false, actions := [.toggle 5] })
      = [7, 2, 7, 3, 3, 2, 0xFE, 0xFF, 0xFF, 0xFF, 0xFE, 0xFF, 0xFF, 0xFF, 0, 0, 0, 0, 0, 1, 0, 0, 2, 0, 1, 0, 0, 0, 0, 0, 0, 0, 0, 0,
        1, 3, 5, 0, 0, 0, 0, 0] := by decide +kernel

/-- The premises of StepKeepsAxesMarksAndArrivalLawful, StepKeepsHoldSafe, StepKeepsReportsLawful, StepKeepsCapturesAndCounters and
StepKeepsSessionAndReceiver: a state whose front event is a firing arrival, one whose arrival in progress goes on, and one in HOLD whose front
event is RUN. Each answers a next state (witness_step_answers_next). -/
theorem witness_StepKeeps_invariants :
    (∀ s ∈ [threeMarks.setPending [.stepArrival 1], (pausedAt 3).setPending [.stepArrival 1]],
      s.axesLawful ∧ s.marksLawful ∧ s.arrivalLawful ∧ s.holdSafe ∧ s.reportsLawful ∧ s.capturesLawful ∧ s.lrx.lawful
        ∧ s.countersLawful)
      ∧ (let s := (command holding 9 [0x08]).setPending [.run]
         s.rnc.state = .hold ∧ s.arrivalLawful ∧ s.holdSafe ∧ s.sessionLawful ∧ s.lrx.lawful) := by
  refine ⟨?_, ?_⟩
  · intro s hs
    simp only [List.mem_cons, List.not_mem_nil, or_false] at hs
    rcases hs with rfl | rfl <;> (refine ⟨?_, ?_, ?_, ?_, ?_, ?_, ?_, ?_⟩ <;> decide +kernel)
  · refine ⟨?_, ?_, ?_, ?_, ?_⟩ <;> decide +kernel

theorem witness_step_answers_next :
    step (threeMarks.setPending [.stepArrival 1]) = .next (after (.stepArrival 1) (threeMarks.setPending []))
      ∧ step ((pausedAt 3).setPending [.stepArrival 1]) = .next (after (.stepArrival 1) ((pausedAt 3).setPending []))
      ∧ step ((command holding 9 [0x08]).setPending [.run]) = .next (after .run ((command holding 9 [0x08]).setPending [])) :=
  ⟨next_after (i := .stepArrival 1) (by decide +kernel), next_after (i := .stepArrival 1) (by decide +kernel),
    next_after (i := .run) (by decide +kernel)⟩

end Sys2Proof.Tests
end

section
/-! The Output Line Unit (spec 05): what a line does with the set and toggle requests of its owner. -/

namespace Sys2Proof

/-! ### Levels -/

@[simp] theorem Level.flip_flip (v : Level) : v.flip.flip = v := by
  cases v with
  | low => rfl
  | high => rfl

theorem Level.flip_ne (v : Level) : v.flip ≠ v := by
  cases v with
  | low => decide
  | high => decide

end Sys2Proof

namespace Sys2Proof.Machine

/-! ### The requests of the owner and the pulse end -/

/-- R87: neither the policy nor a pulse in flight has a part in a set request. -/
@[simp] theorem Line.request_owner_set (l : Line) (v : Level) (t : Tick) :
    l.request l.owner (.set v) t = .taken (l.set v) := by
  simp [Line.request]

/-- R88: neither the policy nor a pulse in flight has a part in a toggle request. -/
@[simp] theorem Line.request_owner_toggle (l : Line) (t : Tick) :
    l.request l.owner .toggle t = .taken l.toggle := by
  simp [Line.request]

theorem Line.toggle_toggle (l : Line) : l.toggle.toggle = { l with pulse := none } := by
  simp [Line.toggle]

theorem Line.toggle_level_ne (l : Line) : l.toggle.level ≠ l.level := Level.flip_ne l.level

/-- R91: the pulse end timer runs only while a pulse is in flight. -/
theorem Line.expire_of_pulse_none {l : Line} (h : l.pulse = none) (t : Tick) : l.expire t = l := by
  simp [Line.expire, h]

theorem Line.pulse_none_of_set_or_toggle_taken {l l' : Line} {r : LineRequest} {t : Tick}
    (hr : (∃ v, r = .set v) ∨ r = .toggle) (htaken : l.request l.owner r t = .taken l') : l'.pulse = none := by
  rcases hr with ⟨v, rfl⟩ | rfl
  case inl =>
    obtain rfl : l.set v = l' := by simpa using htaken
    rfl
  case inr =>
    obtain rfl : l.toggle = l' := by simpa using htaken
    rfl

/-- Settles O22: a set and a toggle are `Line.set` and `Line.toggle` of the line, both of which leave no pulse in flight, and the
opposite of the opposite level is the level itself. -/
theorem setAndToggleCancelPulses : Obligations.SetAndToggleCancelPulses := by
  intro l t
  refine ⟨fun v => l.request_owner_set v t, l.request_owner_toggle t, ?duringPulse, ?twice, ?noPulseEnd⟩
  case duringPulse =>
    rintro v _ rfl -
    exact ⟨l.toggle, l.request_owner_toggle t, l.toggle_level_ne, rfl, rfl⟩
  case twice =>
    exact ⟨l.toggle, l.toggle.toggle, l.request_owner_toggle t, l.toggle.request_owner_toggle t, l.toggle_toggle⟩
  case noPulseEnd =>
    intro r l' u hr htaken
    exact Line.expire_of_pulse_none (Line.pulse_none_of_set_or_toggle_taken hr htaken) u

end Sys2Proof.Machine
end

section
/-! The Capture Queue (spec 06.5): what FLUSH_CAPTURES leaves of it and what it answers. -/

namespace Sys2Proof.Machine

/-! ### The answers of FLUSH_CAPTURES -/

/-- R113: FLUSH_CAPTURES carries no operand. -/
theorem flushCapturesAnswer_of_ne_nil {operands : List Byte} (h : operands ≠ []) (s : State) :
    flushCapturesAnswer operands s = s.refuse .badLength := by
  cases operands with
  | nil => exact absurd rfl h
  | cons b bs => rfl

theorem flushCapturesAnswer_nil (s : State) :
    flushCapturesAnswer [] s = (s.setCpq s.cpq.flushed).answer (put8 s.cpq.records.length) := rfl

/-- FLUSH_CAPTURES executed in OPEN is its answer to the operands behind its code. -/
theorem exec_flushCaptures_executes {s : State} {e : Entry} {rest : List Entry} {operands : List Byte}
    (h : s.executes e rest) (hp : e.payload = 0x44 :: operands) :
    exec .flushCaptures s =
      .next ((flushCapturesAnswer operands (s.withInbound rest)).state.answered e
        (flushCapturesAnswer operands (s.withInbound rest)).status
        (flushCapturesAnswer operands (s.withInbound rest)).data) := by
  have hrow : commandRow e.payload = .flushCaptures := by rw [hp]; rfl
  have htail : e.payload.tail = operands := by rw [hp, List.tail_cons]
  have htaken := takeNamed_executes flushCapturesAnswer h hrow
  rw [htail] at htaken
  exact htaken

/-! ### The number discarded -/

/-- R107: a lawful queue holds so few records that one byte counts them. -/
theorem State.capturesLawful.held_toNat {s : State} (h : s.capturesLawful) :
    (BitVec.ofNat 8 s.cpq.records.length).toNat = s.cpq.records.length := by
  obtain ⟨hcapacity, -⟩ := h
  rw [BitVec.toNat_ofNat]
  exact Nat.mod_eq_of_lt (by omega)

/-- Settles O46: the event is the answer of the command's body; a body with operands refuses, and one without leaves the flushed queue and
answers the length of the queue before, which fits one byte. -/
theorem flushCapturesEmptiesQueue : Obligations.FlushCapturesEmptiesQueue := by
  intro s e rest operands hexec hpayload hlawful
  have hanswer := exec_flushCaptures_executes hexec hpayload
  refine ⟨?withOperand, ?noOperand⟩
  case withOperand =>
    intro hne
    rw [hanswer, flushCapturesAnswer_of_ne_nil hne]
    rfl
  case noOperand =>
    rintro rfl
    refine ⟨BitVec.ofNat 8 s.cpq.records.length, hlawful.held_toNat, hlawful.held_toNat.trans_le hlawful.1, ?_⟩
    rw [hanswer, flushCapturesAnswer_nil]
    rfl

end Sys2Proof.Machine
end

section
/-! What one event can do, said once: the effect of the command of every row, and the effect of every event. Each invariant is a case
split over these two lists. -/

namespace Sys2Proof.Machine

/-! ### The effect of a command -/

/-- The state that the command of a row is executed on, the entry having been taken out of the queue: for a command taken before or after
a whole arrival, with the arrival in progress taken to its end (R49). -/
def State.executedOn (s : State) (row : Instr) : State := if takesWhole row then s.settled else s

/-- What the execution of the command of a row can leave of the state `s` it is executed on (spec 10.5 and the command sections of 01 to
08). A refusal and a command that only reads leave that state. -/
inductive CommandEffect (s : State) : Instr → State → Prop
  | same (row : Instr) : CommandEffect s row s
  | setLink (p : LinkParams) (h : p.valid = true) : CommandEffect s .setLink (s.setParams p)
  | clearStats : CommandEffect s .getLinkStats (s.setLrx { s.lrx with stats := .reset })
  | maskReports (mask : BitVec 7) : CommandEffect s .maskReports (s.setRpq { s.rpq with mask := mask })
  | resetPart : CommandEffect s .resetPart (s.setCmi { s.cmi with resetDue := true })
  | run (h : s.rnc.state = .hold) : CommandEffect s .run s.enterRun.1
  | hold (h : s.rnc.state = .run) : CommandEffect s .hold (s.enterHold .host)
  | configAxis (a : Axis) (c : AxisConfig) (f : AxisFields) (hc : f.config = some c) (hidle : s.axisBusy a = false) :
      CommandEffect s .configAxis (s.setAxis a ((s.axis a).configure c s.tick))
  | presetAxis (a : Axis) (v : Int) (h : s.settable a v = true) :
      CommandEffect s .presetAxis (s.setAxis a { (s.axis a).preset v s.tick with limitFlag := false })
  | readAxes (mask : BitVec 8) : CommandEffect s .readAxes (s.updateAxes mask AxisUnit.clearCount)
  | clearAxisFault (mask : BitVec 8) : CommandEffect s .clearAxisFault (s.updateAxes mask AxisUnit.clearFault)
  | homeAxis (a : Axis) (v : Int) (h : s.settable a v = true) : CommandEffect s .homeAxis (s.setAxis a ((s.axis a).armHome v))
  | defineMark (m : Mark) (f : MarkFields) (id : MarkId) (config : Axis → AxisConfig) (hlen : f.entries.length = 7 * f.entryCount)
      (hm : f.mark id config = some m) (hidle : s.markActive m.id = false) : CommandEffect s .defineMark (s.putMark m)
  | deleteMark (id : MarkId) : CommandEffect s .deleteMark (s.setMarks (eraseRecord s.mks.marks id))
  | armMarks (ids : List MarkId) : CommandEffect s .armMarks (s.eachMark State.armMark ids).1
  | disarmMarks (ids : List MarkId) : CommandEffect s .disarmMarks (s.eachMark State.disarmMark ids).1
  | armGroup (g : GroupNo) : CommandEffect s .armGroup (s.armMembers g).1
  | disarmGroup (g : GroupNo) : CommandEffect s .disarmGroup (s.disarmMembers g).1
  | moveMark (id : MarkId) (m moved : Mark) (relative : Bool) (v : Int) (hm : s.mark id = some m)
      (hmove : m.move (s.axis m.axis) relative v = some moved) : CommandEffect s .moveMark (s.putMark moved)
  | configLine (n : LineNo) (o : Owner) (v : Level) (p : Policy) :
      CommandEffect s .configLine (s.setLine n ((s.line n).configure o v p))
  | driveLine (n : LineNo) (r : LineRequest) (l : Line)
      (h : (s.line n).request .host r s.tick = .taken l ∨ (s.line n).request .host r s.tick = .busy l) :
      CommandEffect s .driveLine (s.setLine n l)
  | readLines : CommandEffect s .readLines (s.setFreeIndex (s.freeIndex + 1))
  | clearCollisions :
      CommandEffect s .readLines ((s.setLines (mapUnits Line.clearCount s.lines)).setFreeIndex (s.freeIndex + 1))
  | configStrobe (n : StrobeNo) (c : StrobeConfig) : CommandEffect s .configStrobe (s.setStrobe n ((s.strobe n).configure c))
  | clearGlitches : CommandEffect s .readStrobes (s.setStrobes (mapUnits Strobe.clearCount s.strobes))
  | captureNow (mask : BitVec 8) (h : s.cpq.room = true) : CommandEffect s .captureNow (s.storeCapture (s.hostCapture mask))
  | readCaptures (k : Nat) : CommandEffect s .readCaptures (s.setCpq (s.cpq.removed k))
  | flushCaptures : CommandEffect s .flushCaptures (s.setCpq s.cpq.flushed)

/-! Each command's body has one of these effects. -/

theorem unknownCommandAnswer_effect (l : List Byte) (s : State) :
    CommandEffect s .unknownCommand (unknownCommandAnswer l s).state := by
  cases l <;> exact .same _

theorem pingAnswer_effect (l : List Byte) (s : State) : CommandEffect s .ping (pingAnswer l s).state := by
  unfold pingAnswer
  split <;> exact .same _

theorem getInfoAnswer_effect (l : List Byte) (s : State) : CommandEffect s .getInfo (getInfoAnswer l s).state := by
  cases l <;> exact .same _

theorem setLinkAnswer_effect (l : List Byte) (s : State) : CommandEffect s .setLink (setLinkAnswer l s).state := by
  unfold setLinkAnswer
  split
  · dsimp only
    split
    · exact .setLink _ ‹_›
    · exact .same _
  · exact .same _

theorem getLinkStatsAnswer_effect (l : List Byte) (s : State) : CommandEffect s .getLinkStats (getLinkStatsAnswer l s).state := by
  unfold getLinkStatsAnswer
  split
  · split
    · exact .same _
    · rename_i clear _
      cases clear
      · exact .same _
      · exact .clearStats
  · exact .same _

theorem maskReportsAnswer_effect (l : List Byte) (s : State) : CommandEffect s .maskReports (maskReportsAnswer l s).state := by
  unfold maskReportsAnswer
  split
  · dsimp only
    split
    · exact .maskReports _
    · exact .same _
  · exact .same _

theorem resetPartAnswer_effect (l : List Byte) (s : State) : CommandEffect s .resetPart (resetPartAnswer l s).state := by
  cases l
  · exact .resetPart
  · exact .same _

theorem presetAxisAnswer_effect (l : List Byte) (s : State) : CommandEffect s .presetAxis (presetAxisAnswer l s).state := by
  unfold presetAxisAnswer
  split
  · split
    · exact .same _
    · split
      · exact .presetAxis _ _ ‹_›
      · exact .same _
  · exact .same _

theorem readAxesAnswer_effect (l : List Byte) (s : State) : CommandEffect s .readAxes (readAxesAnswer l s).state := by
  unfold readAxesAnswer
  split
  · split
    · exact .same _
    · rename_i clear _
      split
      · exact .same _
      · cases clear
        · exact .same _
        · exact .readAxes _
  · exact .same _

theorem clearAxisFaultAnswer_effect (l : List Byte) (s : State) :
    CommandEffect s .clearAxisFault (clearAxisFaultAnswer l s).state := by
  unfold clearAxisFaultAnswer
  split
  · split
    · exact .same _
    · exact .clearAxisFault _
  · exact .same _

theorem homeAxisAnswer_effect (l : List Byte) (s : State) : CommandEffect s .homeAxis (homeAxisAnswer l s).state := by
  unfold homeAxisAnswer
  split
  · split
    · exact .same _
    · split
      · exact .homeAxis _ _ ‹_›
      · exact .same _
  · exact .same _

theorem configLineAnswer_effect (l : List Byte) (s : State) : CommandEffect s .configLine (configLineAnswer l s).state := by
  unfold configLineAnswer
  split
  · split
    · exact .configLine _ _ _ _
    · exact .same _
  · exact .same _

theorem driveLineAnswer_effect (l : List Byte) (s : State) : CommandEffect s .driveLine (driveLineAnswer l s).state := by
  unfold driveLineAnswer
  split
  · split
    · unfold State.driveLine
      split
      · exact .same _
      · exact .driveLine _ _ _ (.inr ‹_›)
      · exact .driveLine _ _ _ (.inl ‹_›)
    · exact .same _
  · exact .same _

theorem readLinesAnswer_effect (l : List Byte) (s : State) : CommandEffect s .readLines (readLinesAnswer l s).state := by
  unfold readLinesAnswer
  split
  · split
    · exact .same _
    · rename_i clear _
      cases clear
      · exact .readLines
      · exact .clearCollisions
  · exact .same _

theorem configStrobeAnswer_effect (l : List Byte) (s : State) : CommandEffect s .configStrobe (configStrobeAnswer l s).state := by
  unfold configStrobeAnswer
  split
  · split
    · split
      · exact .configStrobe _ _
      · exact .same _
    · exact .same _
  · exact .same _

theorem readStrobesAnswer_effect (l : List Byte) (s : State) : CommandEffect s .readStrobes (readStrobesAnswer l s).state := by
  unfold readStrobesAnswer
  split
  · split
    · exact .same _
    · rename_i clear _
      cases clear
      · exact .same _
      · exact .clearGlitches
  · exact .same _

theorem captureNowAnswer_effect (l : List Byte) (s : State) : CommandEffect s .captureNow (captureNowAnswer l s).state := by
  unfold captureNowAnswer
  split
  · split
    · exact .captureNow _ ‹_›
    · exact .same _
  · exact .same _

theorem readCapturesAnswer_effect (l : List Byte) (s : State) : CommandEffect s .readCaptures (readCapturesAnswer l s).state := by
  unfold readCapturesAnswer
  split
  · split
    · exact .readCaptures _
    · exact .same _
  · exact .same _

theorem flushCapturesAnswer_effect (l : List Byte) (s : State) :
    CommandEffect s .flushCaptures (flushCapturesAnswer l s).state := by
  cases l
  · exact .flushCaptures
  · exact .same _

theorem getStatusAnswer_effect (l : List Byte) (s : State) : CommandEffect s .getStatus (getStatusAnswer l s).state := by
  cases l <;> exact .same _

theorem runAnswer_effect (l : List Byte) (s : State) : CommandEffect s .run (runAnswer l s).state := by
  unfold runAnswer
  split
  · split
    · exact .same _
    · exact .run ‹_›
  · exact .same _

theorem holdAnswer_effect (l : List Byte) (s : State) : CommandEffect s .hold (holdAnswer l s).state := by
  unfold holdAnswer
  split
  · split
    · exact .hold ‹_›
    · exact .same _
  · exact .same _

theorem configAxisAnswer_effect (l : List Byte) (s : State) : CommandEffect s .configAxis (configAxisAnswer l s).state := by
  unfold configAxisAnswer
  split
  · dsimp only
    split
    · rename_i a c _ hc
      unfold State.configAxis
      split
      · exact .same _
      · split
        · exact .same _
        · split
          · exact .same _
          · rename_i hidle
            exact .configAxis a c _ hc (Bool.eq_false_iff.mpr hidle)
    · exact .same _
  · exact .same _

theorem defineMarkAnswer_effect (l : List Byte) (s : State) : CommandEffect s .defineMark (defineMarkAnswer l s).state := by
  unfold defineMarkAnswer
  split
  · split
    · exact .same _
    · rename_i hlen
      dsimp only
      split
      · rename_i m hm
        unfold State.defineMark
        split
        · exact .same _
        · rename_i hidle
          exact .defineMark m _ _ _ (not_not.mp hlen) hm (Bool.eq_false_iff.mpr hidle)
      · exact .same _
  · exact .same _

theorem deleteMarkAnswer_effect (l : List Byte) (s : State) : CommandEffect s .deleteMark (deleteMarkAnswer l s).state := by
  unfold deleteMarkAnswer
  split
  · split
    · exact .same _
    · split
      · exact .same _
      · exact .deleteMark _
  · exact .same _

theorem armMarksAnswer_effect (l : List Byte) (s : State) : CommandEffect s .armMarks (armMarksAnswer l s).state := by
  unfold armMarksAnswer markListAnswer
  split
  · split
    · exact .same _
    · split
      · exact .armMarks _
      · exact .same _
  · exact .same _

theorem disarmMarksAnswer_effect (l : List Byte) (s : State) :
    CommandEffect s .disarmMarks (disarmMarksAnswer l s).state := by
  unfold disarmMarksAnswer markListAnswer
  split
  · split
    · exact .same _
    · split
      · exact .disarmMarks _
      · exact .same _
  · exact .same _

theorem armGroupAnswer_effect (l : List Byte) (s : State) : CommandEffect s .armGroup (armGroupAnswer l s).state := by
  unfold armGroupAnswer
  split
  · split
    · exact .same _
    · exact .armGroup _
  · exact .same _

theorem disarmGroupAnswer_effect (l : List Byte) (s : State) :
    CommandEffect s .disarmGroup (disarmGroupAnswer l s).state := by
  unfold disarmGroupAnswer
  split
  · split
    · exact .same _
    · exact .disarmGroup _
  · exact .same _

theorem moveMarkAnswer_effect (l : List Byte) (s : State) : CommandEffect s .moveMark (moveMarkAnswer l s).state := by
  unfold moveMarkAnswer
  split
  · split
    · exact .same _
    · exact .same _
    · rename_i hm
      split
      · exact .same _
      · split
        · exact .same _
        · exact .moveMark _ _ _ _ _ hm ‹_›
  · exact .same _

theorem readMarkAnswer_effect (l : List Byte) (s : State) : CommandEffect s .readMark (readMarkAnswer l s).state := by
  unfold readMarkAnswer
  split <;> exact .same _

theorem listMarksAnswer_effect (l : List Byte) (s : State) : CommandEffect s .listMarks (listMarksAnswer l s).state := by
  unfold listMarksAnswer
  split
  · split <;> exact .same _
  · exact .same _

/-- The body of every row has an effect of the list, on the state it is executed on. -/
theorem commandBody_effect {row : Instr} {body : List Byte → State → Answer} (h : commandBody row = some body) (l : List Byte)
    (s : State) : CommandEffect (s.executedOn row) row (body l s).state := by
  cases row <;> simp only [commandBody, Option.some.injEq, reduceCtorEq] at h <;> subst h
  case unknownCommand => exact unknownCommandAnswer_effect l s
  case ping => exact pingAnswer_effect _ s
  case getInfo => exact getInfoAnswer_effect _ s
  case setLink => exact setLinkAnswer_effect _ s
  case getStatus => exact getStatusAnswer_effect _ s.settled
  case getLinkStats => exact getLinkStatsAnswer_effect _ s
  case maskReports => exact maskReportsAnswer_effect _ s
  case resetPart => exact resetPartAnswer_effect _ s
  case run => exact runAnswer_effect _ s.settled
  case hold => exact holdAnswer_effect _ s.settled
  case configAxis => exact configAxisAnswer_effect _ s.settled
  case presetAxis => exact presetAxisAnswer_effect _ s
  case readAxes => exact readAxesAnswer_effect _ s
  case clearAxisFault => exact clearAxisFaultAnswer_effect _ s
  case homeAxis => exact homeAxisAnswer_effect _ s
  case defineMark => exact defineMarkAnswer_effect _ s.settled
  case deleteMark => exact deleteMarkAnswer_effect _ s.settled
  case armMarks => exact armMarksAnswer_effect _ s.settled
  case disarmMarks => exact disarmMarksAnswer_effect _ s.settled
  case armGroup => exact armGroupAnswer_effect _ s.settled
  case disarmGroup => exact disarmGroupAnswer_effect _ s.settled
  case moveMark => exact moveMarkAnswer_effect _ s.settled
  case readMark => exact readMarkAnswer_effect _ s.settled
  case listMarks => exact listMarksAnswer_effect _ s.settled
  case configLine => exact configLineAnswer_effect _ s
  case driveLine => exact driveLineAnswer_effect _ s
  case readLines => exact readLinesAnswer_effect _ s
  case configStrobe => exact configStrobeAnswer_effect _ s
  case readStrobes => exact readStrobesAnswer_effect _ s
  case captureNow => exact captureNowAnswer_effect _ s
  case readCaptures => exact readCapturesAnswer_effect _ s
  case flushCaptures => exact flushCapturesAnswer_effect _ s

/-! ### The effect of an event -/

/-- What an event can leave of the state `s` it is taken on. An event that does not come about (log entry 1) leaves the state itself. -/
inductive EventEffect (s : State) : Instr → State → Prop
  | absent (i : Instr) : EventEffect s i s
  | hardReset (pins : ResetPins) : EventEffect s (.hardReset pins) (s.resetPart .hard pins)
  | filteredSample (a : Axis) (la lb lz : Level) :
      EventEffect s (.filteredSample a.val la lb lz) (s.filteredSample a la lb lz)
  | pinSample (a : Axis) (la lb lz : Level) : EventEffect s (.pinSample a.val la lb lz) (s.pinSample a la lb lz)
  | timeCount (a : Axis) : EventEffect s (.timeCountExpiry a.val) (s.timeCount a)
  | stepArrival (a : Axis) :
      EventEffect s (.stepArrival a.val) ((s.setPauses s.pauses.tail).stepArrival s.pauses.head?.join a)
  | jumpArrival (a : Axis) : EventEffect s (.jumpArrival a.val) (s.jumpArrival a)
  | strobeEdge (n : StrobeNo) : EventEffect s (.strobeEdge n.val) (s.strobeEdge n)
  | qualified (n : StrobeNo) : EventEffect s (.strobeQualificationExpiry n.val) (s.qualified n)
  | strobeGroupArm : EventEffect s .strobeGroupArm s.strobeGroupArm
  | pulseEnd (n : LineNo) : EventEffect s (.pulseEnd n.val) (s.pulseEnd n)
  | ackExpiry (h : s.rpq.ackTimer = some s.tick) :
      EventEffect s .ackTimerExpiry (s.setRpq (s.rpq.expire s.cmi.params s.tick))
  | signal (k : Nat) (h : s.rpq.signals = k + 1) :
      EventEffect s .ackTimeoutSignal (s.setRpq { s.rpq with signals := k })
  | signalLoss (k : Nat) (h : s.rpq.signals = k + 1) (ho : s.cmi.session = .opened) :
      EventEffect s .ackTimeoutSignal ((s.setRpq { s.rpq with signals := k }).loseSession .ackTimeout)
  | silenceLoss (ho : s.cmi.session = .opened) : EventEffect s .silenceTimerExpiry (s.loseSession .linkSilent)
  | beacon (ho : s.cmi.session ≠ .opened) :
      EventEffect s .helloBeaconExpiry ((s.setCmi { s.cmi with beaconTimer := some (beaconEnd s.tick) }).callHello)
  | character (value : Byte) (mark : Bool) : EventEffect s (.characterReceived value mark) (s.character value mark)
  | gapExpiry : EventEffect s .gapTimerExpiry (s.setLrx (s.lrx.discard .gap))
  | startBit : EventEffect s .startBitConfirmed (s.setLrx { s.lrx with line := .inCharacter, gapTimer := none })
  | rxdHigh : EventEffect s .rxdReturnsHigh (s.setLrx { s.lrx with line := .watching })
  | sendReply (r : Reply) (h : s.ltx.slot = some r) : EventEffect s .txTakeFrame (s.setLtx (s.ltx.start r.frame s.tick))
  | sendHello :
      EventEffect s .txTakeFrame (s.setLtx { s.ltx.start s.helloFrame s.tick with helloPending := false })
  | sendReport (r : ReportRecord) (h : s.offered = some r) :
      EventEffect s .txTakeFrame
        ((s.setRpq (s.rpq.send r s.cmi.params s.tick).2).setLtx
          (s.ltx.start { kind := .report, seq := (s.rpq.send r s.cmi.params s.tick).1, payload := reportPayload r } s.tick))
  | commandReset (pins : ResetPins) (h : s.cmi.resetDue = true) : EventEffect s (.txFrameDone pins) (s.resetPart .command pins)
  | replyDone (pins : ResetPins) (h : s.cmi.resetDue = false) :
      EventEffect s (.txFrameDone pins) (s.setLtx { s.ltx with slot := none, sending := none })
  | otherDone (pins : ResetPins) : EventEffect s (.txFrameDone pins) (s.setLtx { s.ltx with sending := none })
  | sync (e : Entry) (h : s.entryFor .sync = some e) : EventEffect s .sync s.dropEntry.openSession
  | answered {i : Instr} (e : Entry) (r : Reply) (h : s.entryFor i = some e) : EventEffect s i (s.dropEntry.placeReply r)
  | executed {i : Instr} {t : State} (e : Entry) (r : Reply) (h : s.entryFor i = some e) (ho : s.cmi.session = .opened)
      (ht : CommandEffect (s.dropEntry.executedOn i) i t) : EventEffect s i ((t.placeReply r).cacheReply r)

/-- The event of a command's row answers the entry, executes it, or does not come about. -/
theorem takeCommand_effect {i : Instr} {body : List Byte → State → Answer} (h : commandBody i = some body) (s : State) :
    EventEffect s i (s.takeCommand i body) :=
  State.takeCommand_induct (.absent i) (fun e r he => .answered e r he) fun e r he ho =>
    .executed e r he ho (commandBody_effect h e.payload s.dropEntry)

theorem takeFrame_effect (s : State) : EventEffect s .txTakeFrame s.takeFrame := by
  unfold State.takeFrame
  split
  · exact .sendReply _ ‹_›
  · split
    · exact .sendHello
    · split
      · exact .absent _
      · exact .sendReport _ ‹_›

theorem frameDone_effect (s : State) (pins : ResetPins) (x : Sending) : EventEffect s (.txFrameDone pins) (s.frameDone pins x) := by
  unfold State.frameDone
  split
  · split
    · exact .commandReset _ ‹_›
    · exact .replyDone _ (Bool.eq_false_iff.mpr ‹_›)
  · exact .otherDone _
  · exact .otherDone _

theorem ackTimeoutSignal_effect (s : State) : EventEffect s .ackTimeoutSignal s.ackTimeoutSignal := by
  unfold State.ackTimeoutSignal
  split
  · exact .absent _
  · dsimp only
    split
    · rename_i h
      exact .signalLoss _ ‹_› h.1
    · exact .signal _ ‹_›

/-- An event of a unit that completes names a unit the part has (Table 0-4). -/
theorem onAxis_eq_next {n : Nat} {s t : State} {f : Axis → State → State} (h : onAxis n s f = .next t) :
    ∃ a : Axis, n = a.val ∧ t = f a s := by
  unfold onAxis at h
  split at h
  · rename_i hn
    injection h with h
    exact ⟨⟨n, hn⟩, rfl, h.symm⟩
  · exact absurd h nofun

theorem onStrobe_eq_next {n : Nat} {s t : State} {f : StrobeNo → State → State} (h : onStrobe n s f = .next t) :
    ∃ a : StrobeNo, n = a.val ∧ t = f a s := by
  unfold onStrobe at h
  split at h
  · rename_i hn
    injection h with h
    exact ⟨⟨n, hn⟩, rfl, h.symm⟩
  · exact absurd h nofun

theorem onLine_eq_next {n : Nat} {s t : State} {f : LineNo → State → State} (h : onLine n s f = .next t) :
    ∃ a : LineNo, n = a.val ∧ t = f a s := by
  unfold onLine at h
  split at h
  · rename_i hn
    injection h with h
    exact ⟨⟨n, hn⟩, rfl, h.symm⟩
  · exact absurd h nofun

/-- Every event that completes has an effect of the list. -/
theorem exec_effect {i : Instr} {s t : State} (h : exec i s = .next t) : EventEffect s i t := by
  cases hb : commandBody i with
  | some body =>
    rw [exec_command hb] at h
    injection h with h
    exact h ▸ takeCommand_effect hb s
  | none =>
    cases i <;> simp only [commandBody, reduceCtorEq] at hb
    case filteredSample n la lb lz =>
      obtain ⟨a, rfl, rfl⟩ := onAxis_eq_next (f := fun a => State.filteredSample a la lb lz) h
      exact .filteredSample a la lb lz
    case pinSample n la lb lz =>
      obtain ⟨a, rfl, rfl⟩ := onAxis_eq_next (f := fun a => State.pinSample a la lb lz) h
      exact .pinSample a la lb lz
    case timeCountExpiry n =>
      obtain ⟨a, rfl, rfl⟩ := onAxis_eq_next h
      exact .timeCount a
    case stepArrival n =>
      obtain ⟨a, rfl, rfl⟩ := onAxis_eq_next h
      exact .stepArrival a
    case jumpArrival n =>
      obtain ⟨a, rfl, rfl⟩ := onAxis_eq_next h
      exact .jumpArrival a
    case strobeEdge n =>
      obtain ⟨a, rfl, rfl⟩ := onStrobe_eq_next h
      exact .strobeEdge a
    case strobeQualificationExpiry n =>
      obtain ⟨a, rfl, rfl⟩ := onStrobe_eq_next h
      exact .qualified a
    case pulseEnd n =>
      obtain ⟨a, rfl, rfl⟩ := onLine_eq_next h
      exact .pulseEnd a
    all_goals injection h with h
    all_goals subst h
    case hardReset pins => exact .hardReset pins
    case strobeGroupArm => exact .strobeGroupArm
    case ackTimeoutSignal => exact ackTimeoutSignal_effect s
    case ackTimerExpiry =>
      split
      · rename_i hd
        exact .ackExpiry (by simpa [due] using hd)
      · exact .absent _
    case silenceTimerExpiry =>
      unfold State.silenceExpiry
      split
      · rename_i hd
        exact .silenceLoss hd.2
      · exact .absent _
    case helloBeaconExpiry =>
      unfold State.beaconExpiry
      split
      · rename_i hd
        exact .beacon hd.2
      · exact .absent _
    case characterReceived value mark =>
      split
      · exact .absent _
      · exact .character value mark
      · exact .character value mark
    case gapTimerExpiry =>
      split
      · exact .gapExpiry
      · exact .absent _
    case startBitConfirmed =>
      split
      · exact .startBit
      · exact .absent _
      · exact .absent _
    case rxdReturnsHigh =>
      split
      · exact .rxdHigh
      · exact .absent _
      · exact .absent _
    case txTakeFrame =>
      split
      · exact takeFrame_effect s
      · exact .absent _
    case txFrameDone pins =>
      split
      · split
        · exact frameDone_effect s pins _
        · exact .absent _
      · exact .absent _
    case sync =>
      split
      · exact .sync _ ‹_›
      · exact .absent _

/-! ### The step -/

/-- Settles O1: the step is a match on the queue. -/
theorem stepTakesFrontEvent : Obligations.StepTakesFrontEvent := by
  intro c rest s h
  rw [step, h]

/-- A step takes the event at the front of the queue, or idles. -/
theorem step_eq_next {s t : State} (h : step s = .next t) :
    (∃ i rest, s.pending = i :: rest ∧ exec i (s.setPending rest) = .next t) ∨ (s.pending = [] ∧ t = s.idle) := by
  cases hp : s.pending with
  | nil =>
    rw [step, hp] at h
    injection h with h
    exact .inr ⟨rfl, h.symm⟩
  | cons i rest =>
    rw [stepTakesFrontEvent i rest s hp] at h
    exact .inl ⟨i, rest, rfl, h⟩

/-- An idle step moves the clock and the count of sent bytes, or the model's own fields; every block is as it was. -/
theorem State.idle_cases (s : State) :
    (∃ p n q, s.idle = ((s.setPauses p).setFreeIndex n).setPending q) ∨ ∃ p, s.idle = (s.setPauses p).nextTick := by
  unfold State.idle
  split
  · refine .inr ?_
    unfold State.endWait
    split
    · exact ⟨_, rfl⟩
    · exact ⟨s.pauses, rfl⟩
  · refine .inl ?_
    unfold State.drawPauses
    split
    · exact ⟨_, _, _, rfl⟩
    · exact ⟨s.pauses, s.freeIndex, _, rfl⟩

/-- A predicate that every event keeps, and that looks at the tick counter, the model's own fields and the count of sent bytes no further
than an idle step moves them, is kept by every step. -/
theorem step_keeps {P : State → Prop} (own : ∀ s p n q, P s → P (((s.setPauses p).setFreeIndex n).setPending q))
    (tick : ∀ s, P s → P s.nextTick) (event : ∀ i s t, P s → exec i s = .next t → P t) {s t : State} (hs : P s)
    (h : step s = .next t) : P t := by
  rcases step_eq_next h with ⟨i, rest, -, he⟩ | ⟨-, rfl⟩
  · exact event i _ t (own s s.pauses s.freeIndex rest hs) he
  · rcases s.idle_cases with ⟨p, n, q, he⟩ | ⟨p, he⟩ <;> rw [he]
    · exact own s p n q hs
    · exact tick _ (own s p s.freeIndex s.pending hs)

end Sys2Proof.Machine
end

section
/-! The events of the Axis Units, the Mark Scheduler, the Action Unit and the Strobe Unit are built from a few primitive effects. A
predicate that the primitive effects keep is kept by every one of these events. -/

namespace Sys2Proof.Machine

/-! ### An arrival is its stages -/

/-- What every stage keeps, a number of stages keeps. -/
theorem State.stages_keeps {P : State → Prop} (stage : ∀ s, P s → P s.stage) (n : Nat) {s : State} (h : P s) : P (s.stages n) := by
  induction n generalizing s with
  | zero => exact h
  | succ n ih => exact ih (stage s h)

/-- What every stage keeps, an arrival taken to its end keeps. -/
theorem State.settled_keeps {P : State → Prop} (stage : ∀ s, P s → P s.stage) {s : State} (h : P s) : P s.settled := by
  obtain ⟨n, hn⟩ := s.exists_stages_settled
  exact hn ▸ State.stages_keeps stage n h

theorem State.goOn_keeps {P : State → Prop} (stage : ∀ s, P s → P s.stage) (x : Option Nat) {s : State} (h : P s) : P (s.goOn x) := by
  cases x with
  | none => exact State.settled_keeps stage h
  | some n => exact State.stages_keeps stage n h

theorem State.executedOn_keeps {P : State → Prop} (stage : ∀ s, P s → P s.stage) (row : Instr) {s : State} (h : P s) :
    P (s.executedOn row) := by
  unfold State.executedOn
  split
  · exact State.settled_keeps stage h
  · exact h

/-! ### What the changes of a record and of a unit leave of its counts -/

@[simp] theorem Mark.arm_fires (m : Mark) (c : AxisConfig) (p : Int) : (m.arm c p).fires = m.fires := by
  unfold Mark.arm
  cases m.kind <;> rfl

@[simp] theorem Mark.fired_fires (m : Mark) (c : AxisConfig) : (m.fired c).fires = m.fires := by
  unfold Mark.fired
  split
  · rfl
  · rfl
  · dsimp only
    split <;> rfl

@[simp] theorem Mark.bandCheck_fires (m : Mark) (c : AxisConfig) (p : Int) :
    (m.bandCheck c p).fires = m.fires := by
  rcases m.bandCheck_cases c p with h | ⟨h, -⟩ <;> rw [h]

@[simp] theorem AxisUnit.takeIndex_phaseErrors (u : AxisUnit) (t : Tick) :
    (u.takeIndex t).phaseErrors = u.phaseErrors := by
  unfold AxisUnit.takeIndex
  dsimp only
  split <;> rfl

@[simp] theorem AxisUnit.keepReference_phaseErrors (u : AxisUnit) :
    u.keepReference.phaseErrors = u.phaseErrors := by
  unfold AxisUnit.keepReference
  split <;> rfl

theorem Mark.move_fires {m n : Mark} {u : AxisUnit} {relative : Bool} {v : Int}
    (h : m.move u relative v = some n) : n.fires = m.fires := by
  simp only [Mark.move, Option.map_eq_some_iff] at h
  obtain ⟨target, -, rfl⟩ := h
  rw [Mark.bandCheck_fires]
  unfold Mark.retarget
  cases m.kind <;> rfl

theorem Mark.catchUp_fires {m n : Mark} {c : AxisConfig} {p : Int} {k : Nat}
    (h : m.catchUp c p = some (n, k)) : n.fires = m.fires := by
  unfold Mark.catchUp at h
  split at h
  · split at h
    · dsimp only at h
      split at h
      · split at h
        · cases h; rfl
        · split at h <;> cases h <;> rfl
      · split at h <;> cases h <;> rfl
    · cases h
  · cases h
  · cases h

theorem State.positions_matchesMask (s : State) (mask : BitVec 8) : matchesMask mask (s.positions mask) := by
  simp [matchesMask, State.positions]

theorem State.eachMark_keeps {P : State → Prop} {op : State → MarkId → State × MarkResult} (hop : ∀ s id, P s → P (op s id).1)
    (ids : List MarkId) {s : State} (h : P s) : P (s.eachMark op ids).1 := by
  induction ids generalizing s with
  | nil => exact h
  | cons id rest ih => exact ih (hop s id h)

/-! ### The primitive effects -/

/-- The fire counts of a table are 0, or those of another table, each moved on by at most one firing. -/
def FiresFrom (old new : List Mark) : Prop := ∀ m ∈ new, m.fires = 0 ∨ ∃ x ∈ old, m.fires = x.fires ∨ m.fires = bump x.fires

theorem FiresFrom.refl (marks : List Mark) : FiresFrom marks marks := fun m hm => .inr ⟨m, hm, .inl rfl⟩

theorem FiresFrom.putRecord {marks : List Mark} {m : Mark}
    (h : m.fires = 0 ∨ ∃ x ∈ marks, m.fires = x.fires ∨ m.fires = bump x.fires) : FiresFrom marks (putRecord m marks) := by
  intro y hy
  rcases mem_putRecord hy with rfl | hy
  · exact h
  · exact .inr ⟨y, hy, .inl rfl⟩

theorem FiresFrom.map {marks : List Mark} {f : Mark → Mark} (h : ∀ m, (f m).fires = m.fires) : FiresFrom marks (marks.map f) := by
  intro y hy
  obtain ⟨x, hx, rfl⟩ := List.mem_map.mp hy
  exact .inr ⟨x, hx, .inl (h x)⟩

theorem FiresFrom.eraseRecord (marks : List Mark) (id : MarkId) : FiresFrom marks (eraseRecord marks id) :=
  fun m hm => .inr ⟨m, List.mem_of_mem_filter hm, .inl rfl⟩

/-- A predicate kept by the primitive effects of the units: a report taken, an axis written, the Mark Scheduler and the Action Unit
written, a request of MARK on a line, a capture that is fit offered, a strobe written. -/
structure KeptByUnits (fit : Capture → Prop) (P : State → Prop) : Prop where
  fits : ∀ x : Capture, matchesMask x.mask x.positions → fit x
  report : ∀ (s : State) (r : Report), r.dropped = 0 → P s → P (s.report r)
  axis : ∀ (s : State) (a : Axis) (u : AxisUnit),
    u.phaseErrors = (s.axis a).phaseErrors ∨ u.phaseErrors = bump (s.axis a).phaseErrors ∨ u.phaseErrors = 0 →
    P s → P (s.setAxis a u)
  scheduler : ∀ (s : State) (k : MarkScheduler) (c : Option ActionContext), FiresFrom s.mks.marks k.marks → P s →
    P ((s.setMks k).setAcu c)
  line : ∀ (s : State) (n : LineNo) (r : LineRequest) (l : Line),
    (s.line n).request .mark r s.tick = .taken l ∨ (s.line n).request .mark r s.tick = .busy l → P s → P (s.setLine n l)
  capture : ∀ (s : State) (x : Capture), fit x → P s → P (s.setCpq (if s.cpq.room then s.cpq.store x else s.cpq.lose))
  strobe : ∀ (s : State) (n : StrobeNo) (b : Strobe),
    b.glitches = (s.strobe n).glitches ∨ b.glitches = bump (s.strobe n).glitches →
    (∀ r ∈ b.record, matchesMask b.config.mask r.positions) → P s → P (s.setStrobe n b)

namespace KeptByUnits

variable {fit : Capture → Prop} {P : State → Prop}

theorem reportIf (hP : KeptByUnits fit P) {s : State} (c : Bool) (r : Report) (hr : r.dropped = 0) (h : P s) :
    P (s.reportIf c r) := by
  cases c with
  | false => exact h
  | true => exact hP.report s r hr h

theorem setMks (hP : KeptByUnits fit P) {s : State} (k : MarkScheduler) (hk : FiresFrom s.mks.marks k.marks) (h : P s) :
    P (s.setMks k) := hP.scheduler s k s.acu hk h

theorem setAcu (hP : KeptByUnits fit P) {s : State} (c : Option ActionContext) (h : P s) : P (s.setAcu c) :=
  hP.scheduler s s.mks c (.refl _) h

/-- A record written with the fire count of one in the table. -/
theorem putMark (hP : KeptByUnits fit P) {s : State} (m x : Mark) {id : MarkId} (hx : s.mark id = some x) (hf : m.fires = x.fires)
    (h : P s) : P (s.putMark m) :=
  hP.setMks _ (.putRecord (.inr ⟨x, findMark_mem hx, .inl hf⟩)) h

/-! ### Captures -/

theorem offerCapture (hP : KeptByUnits fit P) {s : State} (x : Capture) (hx : fit x) (h : P s) : P (s.offerCapture x) := by
  have hc := hP.capture s x hx h
  unfold State.offerCapture
  split
  · rename_i hr
    rw [if_pos hr] at hc
    exact hP.reportIf _ _ rfl hc
  · rename_i hr
    rw [if_neg hr] at hc
    exact hP.reportIf _ _ rfl hc

/-! ### Arming and disarming -/

theorem armMark (hP : KeptByUnits fit P) {s : State} (id : MarkId) (h : P s) : P (s.armMark id).1 := by
  unfold State.armMark
  split
  · exact h
  · rename_i m hm
    dsimp only
    split
    · exact h
    · split
      · exact hP.putMark _ m hm (m.arm_fires _ _) h
      · exact h

theorem disarmMark (hP : KeptByUnits fit P) {s : State} (id : MarkId) (h : P s) : P (s.disarmMark id).1 := by
  unfold State.disarmMark
  split
  · exact h
  · rename_i m hm
    exact hP.setMks _ (FiresFrom.refl _) (hP.putMark { m with state := .disarmed } m hm rfl h)

theorem armEach (hP : KeptByUnits fit P) (ids : List MarkId) {s : State} (h : P s) : P (s.armEach ids).1 := by
  induction ids generalizing s with
  | nil => exact h
  | cons id rest ih => exact ih (hP.armMark id h)

theorem disarmEach (hP : KeptByUnits fit P) (ids : List MarkId) {s : State} (h : P s) : P (s.disarmEach ids).1 := by
  induction ids generalizing s with
  | nil => exact h
  | cons id rest ih => exact ih (hP.disarmMark id h)

theorem armMembers (hP : KeptByUnits fit P) (g : GroupNo) {s : State} (h : P s) : P (s.armMembers g).1 := hP.armEach _ h

theorem disarmMembers (hP : KeptByUnits fit P) (g : GroupNo) {s : State} (h : P s) : P (s.disarmMembers g).1 := hP.disarmEach _ h

/-! ### An arrival -/

theorem lineAction (hP : KeptByUnits fit P) {s : State} (c : ActionContext) (n : LineNo) (r : LineRequest) (h : P s) :
    P (s.lineAction c n r) := by
  unfold State.lineAction
  split
  · exact hP.line s n r _ (.inl ‹_›) h
  · exact hP.report _ _ rfl (hP.line s n r _ (.inr ‹_›) h)
  · exact hP.report _ _ rfl h

theorem snapshotAction (hP : KeptByUnits fit P) {s : State} (c : ActionContext) (mask : BitVec 8) (h : P s) :
    P (s.snapshotAction c mask) := by
  have offered := hP.offerCapture
    { source := .mark c.mark, gap := false, tick := c.tick, mask := mask, positions := s.positions mask }
    (hP.fits _ (State.positions_matchesMask s mask)) h
  unfold State.offerCapture at offered
  unfold State.snapshotAction
  split
  · exact hP.report _ _ rfl h
  · dsimp only
    split
    · rename_i hr
      rwa [if_pos hr] at offered
    · rename_i hr
      rw [if_neg hr] at offered
      exact hP.report _ _ rfl offered

theorem presetAction (hP : KeptByUnits fit P) {s : State} (c : ActionContext) (a : Axis) (v : Int) (h : P s) :
    P (s.presetAction c a v) := by
  unfold State.presetAction
  dsimp only
  split
  · exact hP.report _ _ rfl h
  · split
    · exact hP.setMks _ (FiresFrom.refl _) (hP.axis s a _ (.inl rfl) h)
    · exact hP.report _ _ rfl h

theorem takeEntry (hP : KeptByUnits fit P) {s : State} (c : ActionContext) (x : Action) (h : P s) : P (s.takeEntry c x) := by
  cases x with
  | pulse n v w => exact hP.lineAction c n _ h
  | set n v => exact hP.lineAction c n _ h
  | toggle n => exact hP.lineAction c n _ h
  | snapshot mask => exact hP.snapshotAction c mask h
  | preset a v => exact hP.presetAction c a v h
  | armGroup g => exact hP.armMembers g h
  | disarmGroup g => exact hP.disarmMembers g h

theorem nextEntry (hP : KeptByUnits fit P) {s : State} (c : ActionContext) (h : P s) : P (s.nextEntry c) := by
  unfold State.nextEntry
  split
  · exact hP.setAcu _ h
  · exact hP.setAcu _ (hP.takeEntry c _ h)

theorem endFiring (hP : KeptByUnits fit P) {s : State} (id : MarkId) (p : Int) (d : Direction) (t : Tick) (h : P s) :
    P (s.endFiring id p d t) := by
  unfold State.endFiring
  split
  · rename_i m _
    have hr := hP.reportIf m.report (m.firedReport p d t) rfl h
    refine hP.setMks _ (FiresFrom.refl _) ?_
    unfold State.transition
    split
    · rename_i x hx
      split
      · exact hr
      · exact hP.putMark _ x hx (x.fired_fires _) hr
    · exact hr
  · exact hP.setMks _ (FiresFrom.refl _) h

theorem beginTurn (hP : KeptByUnits fit P) {s : State} (id : MarkId) (t : Tick) (h : P s) : P (s.beginTurn id t) := by
  unfold State.beginTurn
  split
  · rename_i m hm
    split
    · have counted : P (s.putMark (m.counted t)) :=
        hP.setMks _ (.putRecord (.inr ⟨m, findMark_mem hm, .inr rfl⟩)) h
      exact hP.setAcu _ (hP.setMks _ (FiresFrom.refl _) counted)
    · exact h
  · exact h

theorem stage (hP : KeptByUnits fit P) (s : State) (h : P s) : P s.stage := by
  have scheduler : ∀ k : MarkScheduler, k.marks = s.mks.marks → P (s.setMks k) := fun k hk =>
    hP.setMks k (hk ▸ FiresFrom.refl _) h
  unfold State.stage
  split
  · exact h
  · split
    · exact scheduler _ rfl
    · split
      · exact hP.nextEntry _ h
      · exact hP.endFiring _ _ _ _ h
      · exact hP.beginTurn _ _ (scheduler _ rfl)
      · exact scheduler _ rfl

theorem settled (hP : KeptByUnits fit P) {s : State} (h : P s) : P s.settled := State.settled_keeps hP.stage h

theorem bandPhase (hP : KeptByUnits fit P) {s : State} (a : Axis) (p : Int) (h : P s) : P (s.bandPhase a p) := by
  refine hP.setMks _ (FiresFrom.map fun m => ?_) h
  split
  · exact m.bandCheck_fires _ p
  · rfl

theorem takeStepArrival (hP : KeptByUnits fit P) {s : State} (a : Axis) (x : Option Nat) (h : P s) : P (s.takeStepArrival a x) := by
  unfold State.takeStepArrival
  split
  · rename_i p d t rest _
    refine State.goOn_keeps hP.stage x ?_
    have popped := hP.axis s a { s.axis a with arrivals := rest } (.inl rfl) h
    unfold State.beginStepArrival
    have banded := hP.bandPhase a p (hP.setMks (s := s.setAxis a { s.axis a with arrivals := rest })
      { s.mks with
        arrival := some
          { axis := a, arrival := .step p d t, run := s.rnc.state, fireList := [], firing := none, disarmed := []
            reads := p } } (FiresFrom.refl _) popped)
    dsimp only
    split
    · exact banded
    · exact hP.setMks _ (FiresFrom.refl _) banded
  · exact h

theorem stepArrival (hP : KeptByUnits fit P) {s : State} (x : Option Nat) (a : Axis) (h : P s) : P (s.stepArrival x a) := by
  unfold State.stepArrival
  split
  · split
    · exact State.goOn_keeps hP.stage x h
    · exact hP.takeStepArrival a x (hP.settled h)
  · exact hP.takeStepArrival a x h

theorem jumpArrival (hP : KeptByUnits fit P) {s : State} (a : Axis) (h : P s) : P (s.jumpArrival a) := by
  unfold State.jumpArrival
  dsimp only
  split
  · rename_i p t rest _
    have popped := hP.axis s.settled a { s.settled.axis a with arrivals := rest } (.inl rfl) (hP.settled h)
    refine hP.setMks _ (FiresFrom.refl _) (hP.bandPhase a p (hP.setMks _ (FiresFrom.refl _) popped))
  · exact hP.settled h

theorem strobeGroupArm (hP : KeptByUnits fit P) {s : State} (h : P s) : P s.strobeGroupArm := by
  have u := hP.settled h
  unfold State.strobeGroupArm
  dsimp only
  split
  · exact u
  · have popped := hP.setMks (s := s.settled) { s.settled.mks with groupArms := ‹_› } (FiresFrom.refl _) u
    split
    · exact hP.armMembers _ popped
    · exact popped

/-! ### Axes -/

theorem countAxis (hP : KeptByUnits fit P) {s : State} (a : Axis) (d : Direction) (h : P s) : P (s.countAxis a d) := by
  unfold State.countAxis
  dsimp only
  split
  · exact hP.axis s a _ (.inl rfl) h
  · exact hP.reportIf _ _ rfl (hP.axis s a _ (.inl rfl) h)

theorem deliverCount (hP : KeptByUnits fit P) (depth : Nat) (a : Axis) (d : Direction) {s : State} (h : P s) :
    P (State.deliverCount depth a d s) := by
  induction depth generalizing a d s with
  | zero => exact h
  | succ depth ih =>
    have each : ∀ (w : Direction) (l : List Axis) (t : State), P t →
        P (l.foldl (fun st b => State.deliverCount depth b w st) t) := by
      intro w l
      induction l with
      | nil => exact fun t ht => ht
      | cons b rest ihl => exact fun t ht => ihl _ (ih b w ht)
    unfold State.deliverCount
    split
    · exact hP.countAxis a d h
    · exact each _ _ _ (hP.countAxis a d h)

theorem count (hP : KeptByUnits fit P) {s : State} (a : Axis) (d : Direction) (h : P s) : P (s.count a d) := hP.deliverCount _ a d h

theorem phaseError (hP : KeptByUnits fit P) {s : State} (a : Axis) (h : P s) : P (s.phaseError a) :=
  hP.reportIf _ _ rfl (hP.axis s a _ (.inr (.inl rfl)) h)

theorem indexEdge (hP : KeptByUnits fit P) {s : State} (a : Axis) (h : P s) : P (s.indexEdge a) := by
  unfold State.indexEdge
  dsimp only
  split
  · exact hP.reportIf _ _ rfl (hP.axis s a _ (.inl (AxisUnit.takeIndex_phaseErrors _ _)) h)
  · exact h

theorem filteredSample (hP : KeptByUnits fit P) {s : State} (a : Axis) (la lb lz : Level) (h : P s) :
    P (s.filteredSample a la lb lz) := by
  unfold State.filteredSample
  dsimp only
  split
  · have sampled : P (s.setAxis a ((s.axis a).sample la lb lz).keepReference) :=
      hP.axis s a _ (.inl (AxisUnit.keepReference_phaseErrors _)) h
    have counted : ∀ x : Decoded, P ((s.setAxis a ((s.axis a).sample la lb lz).keepReference).takeDecoded a x) := by
      intro x
      cases x with
      | nothing => exact sampled
      | count d => exact hP.count a d sampled
      | phaseError => exact hP.phaseError a sampled
    split
    · exact hP.indexEdge a (counted _)
    · exact counted _
  · exact h

theorem pinSample (hP : KeptByUnits fit P) {s : State} (a : Axis) (la lb lz : Level) (h : P s) : P (s.pinSample a la lb lz) := by
  unfold State.pinSample
  dsimp only
  split
  · exact h
  · exact hP.axis s a _ (.inl rfl) h

theorem timeCount (hP : KeptByUnits fit P) {s : State} (a : Axis) (h : P s) : P (s.timeCount a) := by
  unfold State.timeCount
  dsimp only
  split
  · exact hP.count a .up (hP.axis s a _ (.inl rfl) h)
  · exact h

/-! ### Strobes -/

theorem strobeEvent (hP : KeptByUnits fit P) {s : State} (n : StrobeNo) (edge : Edge) (t : Tick) (positions : List Int)
    (hfit : fit { source := .strobe n edge, gap := false, tick := t, mask := (s.strobe n).config.mask, positions := positions })
    (h : P s) : P (s.strobeEvent n edge t positions) := by
  have offered := hP.offerCapture _ hfit h
  unfold State.strobeEvent
  dsimp only
  split
  · exact offered
  · exact hP.setMks _ (FiresFrom.refl _) offered

theorem strobeEdge (hP : KeptByUnits fit P) {s : State} (n : StrobeNo) (h : P s) : P (s.strobeEdge n) := by
  have hdropped : (s.strobe n).dropped.record = none ∧
      ((s.strobe n).dropped.glitches = (s.strobe n).glitches ∨ (s.strobe n).dropped.glitches = bump (s.strobe n).glitches) := by
    unfold Strobe.dropped
    split
    · exact ⟨rfl, .inr rfl⟩
    · exact ⟨‹_›, .inl rfl⟩
  obtain ⟨hrecord, hglitches⟩ := hdropped
  have turned : P (s.setStrobe n { (s.strobe n).dropped with level := (s.strobe n).level.flip }) :=
    hP.strobe s n _ hglitches (by simp [hrecord]) h
  unfold State.strobeEdge
  dsimp only
  split
  · unfold State.startQualification
    dsimp only
    split
    · exact hP.strobeEvent n _ _ _ (hP.fits _ (State.positions_matchesMask _ _)) turned
    · refine hP.strobe _ n _ (.inl rfl) ?_ turned
      rintro r ⟨⟩
      exact State.positions_matchesMask _ _
  · exact turned

theorem qualified (hP : KeptByUnits fit P) {s : State} (n : StrobeNo)
    (hfit : ∀ r ∈ (s.strobe n).record,
      fit { source := .strobe n r.edge, gap := false, tick := r.tick, mask := (s.strobe n).config.mask, positions := r.positions })
    (h : P s) : P (s.qualified n) := by
  unfold State.qualified
  dsimp only
  split
  · rename_i r hr
    split
    · refine hP.strobeEvent n _ _ _ ?_ (hP.strobe s n _ (.inl rfl) (by simp) h)
      simpa using hfit r hr
    · exact h
  · exact h

/-! ### The RUN catch-up -/

theorem catchUpEach (hP : KeptByUnits fit P) (ids : List MarkId) {s : State} (h : P s) : P (s.catchUpEach ids).1 := by
  induction ids generalizing s with
  | nil => exact h
  | cons id rest ih =>
    unfold State.catchUpEach
    split
    · exact ih h
    · rename_i m k hk
      obtain ⟨x, hx, hc⟩ := Option.bind_eq_some_iff.mp hk
      exact ih (hP.report _ _ rfl (hP.putMark m x hx (Mark.catchUp_fires hc) h))

end KeptByUnits

end Sys2Proof.Machine
end

section
/-! The Report Queue (spec 08): a lawful queue is its sent records with consecutive numbers, followed by its unsent ones, and every
operation is said by what it makes of the two parts. -/

namespace Sys2Proof.Machine

/-! ### The two parts of a queue -/

/-- The numbers of the `k` sent records of a queue whose next sequence number is `next` (R127). -/
def sentNumbers (next : Byte) (k : Nat) : List (Option Byte) :=
  (List.range k).map fun i => some (next - BitVec.ofNat 8 k + BitVec.ofNat 8 i)

/-- The records `old ++ new` stand as R127 has them: `old` sent, with consecutive numbers up to `next`, and `new` unsent. -/
structure SentThenUnsent (next : Byte) (old new : List ReportRecord) : Prop where
  numbers : old.map (·.send.number) = sentNumbers next old.length
  unsent : ∀ r ∈ new, r.send = .unsent

theorem SendState.sent_iff_number (st : SendState) : st.sent = st.number.isSome := by cases st <;> rfl

theorem SendState.number_eq_none {st : SendState} : st.number = none ↔ st = .unsent := by cases st <;> simp [SendState.number]

theorem SentThenUnsent.sent {next : Byte} {old new : List ReportRecord} (h : SentThenUnsent next old new) :
    ∀ r ∈ old, r.send.sent = true := by
  intro r hr
  have : r.send.number ∈ sentNumbers next old.length := h.numbers ▸ List.mem_map_of_mem hr
  obtain ⟨i, -, hi⟩ := List.mem_map.mp this
  rw [SendState.sent_iff_number, ← hi]
  rfl

theorem filter_sent {next : Byte} {old new : List ReportRecord} (h : SentThenUnsent next old new) :
    (old ++ new).filter (·.send.sent) = old := by
  have hnew : new.filter (·.send.sent) = [] := List.filter_eq_nil_iff.mpr fun r hr => by simp [h.unsent r hr, SendState.sent]
  rw [List.filter_append, List.filter_eq_self.mpr h.sent, hnew, List.append_nil]

/-- The number of the oldest sent record, or the next sequence number when none is sent (R130). -/
theorem SentThenUnsent.oldest {next : Byte} {old new : List ReportRecord} (h : SentThenUnsent next old new) :
    ((old ++ new).findSome? (·.send.number)).getD next = next - BitVec.ofNat 8 old.length := by
  have hnew : new.findSome? (·.send.number) = none := by
    rw [List.findSome?_eq_none_iff]
    exact fun r hr => SendState.number_eq_none.mpr (h.unsent r hr)
  rw [List.findSome?_append, hnew, Option.or_none]
  have hnum := h.numbers
  cases old with
  | nil => simp
  | cons r rest =>
    simp only [sentNumbers, List.length_cons, List.range_succ_eq_map, List.map_cons, List.cons.injEq] at hnum
    rw [List.findSome?_cons_of_isSome (by rw [hnum.1]; rfl), hnum.1]
    simp

/-- A lawful queue, by its two parts. -/
theorem ReportQueue.lawful_iff {q : ReportQueue} :
    q.lawful ↔ ∃ old new, q.records = old ++ new ∧ SentThenUnsent q.nextSeq old new ∧ old.length ≤ 8 ∧ q.records.length ≤ 64 ∧
      (q.records.length = 64 → (q.records.getLast?.any (·.freshOverflow)) = true) ∧ (q.ackTimer.isSome = true → old ≠ []) := by
  constructor
  · rintro ⟨hlen, hlast, hsent, hnum, htimer⟩
    have hle : q.sentCount ≤ q.records.length := List.length_filter_le _ _
    have hold : (q.records.take q.sentCount).length = q.sentCount := by simp [hle]
    refine ⟨q.records.take q.sentCount, q.records.drop q.sentCount, (List.take_append_drop _ _).symm, ⟨?_, ?_⟩, ?_, hlen, hlast, ?_⟩
    · rw [hold, List.map_take, hnum]
      simp [sentNumbers]
    · intro r hr
      have : r.send.number ∈ (q.records.map (·.send.number)).drop q.sentCount := by
        rw [← List.map_drop]
        exact List.mem_map_of_mem hr
      rw [hnum, List.drop_left' (by simp)] at this
      exact SendState.number_eq_none.mp (List.eq_of_mem_replicate this)
    · rw [hold]
      exact hsent
    · intro ht he
      have := htimer ht
      rw [he] at hold
      simp only [List.length_nil] at hold
      omega
  · rintro ⟨old, new, hrec, hparts, hold, hlen, hlast, htimer⟩
    have hcount : q.sentCount = old.length := by rw [ReportQueue.sentCount, hrec, filter_sent hparts]
    have hnone : new.map (·.send.number) = List.replicate new.length none := by
      rw [List.eq_replicate_iff]
      refine ⟨List.length_map _, fun x hx => ?_⟩
      obtain ⟨r, hr, rfl⟩ := List.mem_map.mp hx
      exact SendState.number_eq_none.mpr (hparts.unsent r hr)
    refine ⟨hlen, hlast, hcount ▸ hold, ?_, fun ht => ?_⟩
    · rw [hcount, hrec, List.map_append, hparts.numbers, hnone, sentNumbers, List.length_append, Nat.add_sub_cancel_left]
    · rw [hcount]
      exact List.length_pos_iff.mpr (htimer ht)

/-- The number of sent records is that of the first part. -/
theorem SentThenUnsent.sentCount {q : ReportQueue} {old new : List ReportRecord} (h : SentThenUnsent q.nextSeq old new)
    (hrec : q.records = old ++ new) : q.sentCount = old.length := by
  rw [ReportQueue.sentCount, hrec, filter_sent h]

/-- A queue with the records, the next number and the timer of a lawful one is lawful; so is one whose timer is stopped. -/
theorem ReportQueue.lawful.of_same {q q' : ReportQueue} (h : q.lawful) (hr : q'.records = q.records) (hn : q'.nextSeq = q.nextSeq)
    (ht : q'.ackTimer.isSome = true → q.ackTimer.isSome = true) : q'.lawful := by
  obtain ⟨h1, h2, h3, h4, h5⟩ := h
  have hc : q'.sentCount = q.sentCount := by rw [ReportQueue.sentCount, hr]; rfl
  exact ⟨hr ▸ h1, hr ▸ h2, hc ▸ h3, by rw [hr, hc, hn]; exact h4, fun h => hc ▸ h5 (ht h)⟩

/-! ### A report taken (R125, R126) -/

theorem ReportRecord.freshOverflow_iff {r : ReportRecord} :
    r.freshOverflow = true ↔ (∃ n k u, r.body = .overflow n k u) ∧ r.send = .unsent := by
  obtain ⟨body, send, created⟩ := r
  cases body <;> cases send <;> simp [ReportRecord.freshOverflow]

/-- An unsent OVERFLOW record absorbs a report, and is an unsent OVERFLOW record then; no other record does (R125 case 1). -/
theorem ReportRecord.absorb_eq_some {r x : ReportRecord} {k : ReportKind} {t : Tick} (h : r.absorb k t = some x) :
    r.freshOverflow = true ∧ x.freshOverflow = true ∧ x.send = .unsent ∧ x.body.dropped = bump r.body.dropped := by
  obtain ⟨body, send, created⟩ := r
  unfold ReportRecord.absorb at h
  split at h
  · rename_i h1 h2
    simp only at h1 h2
    subst h1 h2
    cases h
    exact ⟨rfl, rfl, rfl, rfl⟩
  · cases h

theorem ReportRecord.absorb_eq_none {r : ReportRecord} {k : ReportKind} {t : Tick} (h : r.absorb k t = none) :
    r.freshOverflow = false := by
  obtain ⟨body, send, created⟩ := r
  cases body <;> cases send <;> simp [ReportRecord.absorb, ReportRecord.freshOverflow] at h ⊢

/-- What joins the records for a report: an unsent OVERFLOW record at the end takes it in, or else one unsent record is appended, an
OVERFLOW record when there are 63 records or more. -/
theorem queueReport_cases (records : List ReportRecord) (r : Report) (t : Tick) :
    (∃ older newest x, records = older ++ [newest] ∧ newest.absorb r.kind t = some x ∧ queueReport records r t = older ++ [x]) ∨
    ((records.getLast?.any (·.freshOverflow)) = false ∧
      queueReport records r t = records ++ [appendedRecord (decide (records.length < 63)) r t]) := by
  unfold queueReport
  rcases List.eq_nil_or_concat records with rfl | ⟨older, newest, rfl⟩
  · exact .inr ⟨rfl, rfl⟩
  · rw [List.concat_eq_append, List.getLast?_concat, Option.bind_some]
    cases ha : newest.absorb r.kind t with
    | some x => exact .inl ⟨older, newest, x, rfl, ha, by simp⟩
    | none => exact .inr ⟨by simpa using ReportRecord.absorb_eq_none ha, rfl⟩

theorem appendedRecord_send (room : Bool) (r : Report) (t : Tick) : (appendedRecord room r t).send = .unsent := by
  cases room <;> rfl

/-- The Report Queue stays lawful as it takes a report (R125). -/
theorem ReportQueue.lawful.take {q : ReportQueue} (h : q.lawful) (r : Report) (t : Tick) : (q.take r t).lawful := by
  unfold ReportQueue.take
  split
  case isFalse => exact h
  obtain ⟨old, new, hrec, hparts, hold, hlen, hlast, htimer⟩ := ReportQueue.lawful_iff.mp h
  refine ReportQueue.lawful_iff.mpr ?_
  dsimp only
  rcases queueReport_cases q.records r t with ⟨older, newest, x, hq, ha, he⟩ | ⟨hno, he⟩
  · obtain ⟨hfresh, hx, hsend, -⟩ := ReportRecord.absorb_eq_some ha
    obtain ⟨-, hunsent⟩ := ReportRecord.freshOverflow_iff.mp hfresh
    have hnew : ∃ init, new = init ++ [newest] ∧ older = old ++ init := by
      rcases List.eq_nil_or_concat new with rfl | ⟨init, last, rfl⟩
      · rw [List.append_nil] at hrec
        have := hparts.sent newest (by rw [← hrec, hq]; simp)
        simp [hunsent, SendState.sent] at this
      · rw [hq, List.concat_eq_append, ← List.append_assoc] at hrec
        obtain ⟨h1, h2⟩ := List.append_inj' hrec rfl
        injection h2 with h2
        exact ⟨init, by rw [List.concat_eq_append, h2], h1⟩
    obtain ⟨init, rfl, rfl⟩ := hnew
    rw [he]
    have hsame : ((old ++ init) ++ [x]).length = q.records.length := by rw [hq]; simp
    refine ⟨old, init ++ [x], by simp, ⟨hparts.numbers, ?_⟩, hold, hsame ▸ hlen, ?_, htimer⟩
    · intro y hy
      rcases List.mem_append.mp hy with hy | hy
      · exact hparts.unsent y (List.mem_append_left _ hy)
      · rw [List.mem_singleton.mp hy, hsend]
    · rw [List.getLast?_concat]
      exact fun _ => hx
  · rw [he]
    have hne : q.records.length ≠ 64 := fun h64 => by rw [hlast h64] at hno; cases hno
    refine ⟨old, new ++ [appendedRecord (decide (q.records.length < 63)) r t], by rw [hrec, List.append_assoc], ⟨hparts.numbers, ?_⟩,
      hold, ?_, ?_, htimer⟩
    · intro y hy
      rcases List.mem_append.mp hy with hy | hy
      · exact hparts.unsent y hy
      · rw [List.mem_singleton.mp hy, appendedRecord_send]
    · simp only [List.length_append, List.length_singleton]
      omega
    · intro h64
      have : ¬ q.records.length < 63 := by simp only [List.length_append, List.length_singleton] at h64; omega
      rw [List.getLast?_concat, decide_eq_false this]
      rfl

/-! ### A record sent (R127, R128) -/

/-- The first record that meets `p` is the one whose send state is replaced. -/
theorem sendFirst_append {p : ReportRecord → Bool} {before : List ReportRecord} (hb : ∀ x ∈ before, p x = false) {r : ReportRecord}
    (hr : p r = true) (st : SendState) (after : List ReportRecord) :
    sendFirst p st (before ++ r :: after) = before ++ r.withSend st :: after := by
  induction before with
  | nil => simp [sendFirst, hr]
  | cons x rest ih =>
    rw [List.cons_append, sendFirst, hb x List.mem_cons_self, ih fun y hy => hb y (List.mem_cons_of_mem _ hy)]
    rfl

theorem sentNumbers_succ (next : Byte) (k : Nat) : sentNumbers (next + 1) (k + 1) = sentNumbers next k ++ [some next] := by
  have hk : (next + 1 - BitVec.ofNat 8 (k + 1) : Byte) = next - BitVec.ofNat 8 k := by
    rw [BitVec.ofNat_add]
    bv_omega
  rw [sentNumbers, hk, List.range_succ, List.map_append, sentNumbers]
  simp

/-- A record of the sent part whose number is kept may take another sent state. -/
theorem SentThenUnsent.replace {next : Byte} {before after new : List ReportRecord} {r x : ReportRecord}
    (h : SentThenUnsent next (before ++ r :: after) new) (hx : x.send.number = r.send.number) :
    SentThenUnsent next (before ++ x :: after) new := by
  refine ⟨?_, h.unsent⟩
  have := h.numbers
  simp only [List.map_append, List.map_cons, List.length_append, List.length_cons] at this ⊢
  rw [hx]
  exact this

/-- Sending a record again keeps its number (R128). -/
theorem ReportQueue.lawful.sendAgain {q : ReportQueue} (h : q.lawful) {r : ReportRecord} {n : Byte}
    (hr : q.records.find? (·.send.resending) = some r) (hn : r.send = .resend n) : (q.sendAgain n).lawful := by
  obtain ⟨old, new, hrec, hparts, hold, hlen, hlast, htimer⟩ := ReportQueue.lawful_iff.mp h
  obtain ⟨hp, before, after, hq, hbefore⟩ := List.find?_eq_some_iff_append.mp hr
  have hsent : r ∈ old := by
    have : r ∈ old ++ new := by rw [← hrec, hq]; simp
    rcases List.mem_append.mp this with h | h
    · exact h
    · rw [hparts.unsent r h] at hn
      cases hn
  have hsplit : sendFirst (·.send.resending) (.awaiting n) q.records = before ++ r.withSend (.awaiting n) :: after := by
    rw [hq]
    exact sendFirst_append (fun x hx => by simpa using hbefore x hx) hp _ _
  obtain ⟨mid, rfl, rfl⟩ : ∃ mid, old = before ++ r :: mid ∧ after = mid ++ new := by
    rw [hq] at hrec
    rcases List.append_eq_append_iff.mp hrec with ⟨as, h1, h2⟩ | ⟨bs, h1, h2⟩
    · cases as with
      | nil =>
        rw [List.nil_append] at h2
        have : r ∈ new := by rw [← h2]; exact List.mem_cons_self
        rw [hparts.unsent r this] at hn
        cases hn
      | cons a as =>
        rw [List.cons_append] at h2
        injection h2 with h3 h4
        exact ⟨as, by rw [h1, h3], h4⟩
    · have : r ∈ new := by rw [h2]; simp
      rw [hparts.unsent r this] at hn
      cases hn
  refine ReportQueue.lawful_iff.mpr ⟨before ++ r.withSend (.awaiting n) :: mid, new, ?_, hparts.replace ?_, ?_, ?_, ?_, fun _ => by simp⟩
  · rw [ReportQueue.sendAgain, hsplit]
    simp
  · rw [hn]
    rfl
  · simpa using hold
  · rw [ReportQueue.sendAgain, hsplit]
    rw [hq] at hlen
    simpa using hlen
  · rw [ReportQueue.sendAgain, hsplit]
    intro h64
    have := hlast (by rw [hq]; simpa using h64)
    rw [hq] at this
    rcases List.eq_nil_or_concat (mid ++ new) with hnil | ⟨init, last, hc⟩
    · rw [hnil, List.getLast?_concat, Option.any_some, ReportRecord.freshOverflow_iff] at this
      rw [this.2] at hn
      cases hn
    · rw [hc, List.concat_eq_append] at this ⊢
      have shape : ∀ y : ReportRecord, before ++ y :: (init ++ [last]) = (before ++ y :: init) ++ [last] := by simp
      rw [shape, List.getLast?_concat] at this ⊢
      exact this

/-- Sending the oldest unsent record within a window of at most 8 gives it the next number (R127, R128). -/
theorem ReportQueue.lawful.sendNew {q : ReportQueue} (h : q.lawful) {p : LinkParams} {r : ReportRecord} {t : Tick}
    (hr : q.records.find? (fun r => !r.send.sent) = some r) (hw : q.sentCount < 8) : (q.sendNew p t).lawful := by
  obtain ⟨old, new, hrec, hparts, hold, hlen, hlast, htimer⟩ := ReportQueue.lawful_iff.mp h
  rw [hparts.sentCount hrec] at hw
  obtain ⟨later, rfl⟩ : ∃ later, new = r :: later := by
    rw [hrec, List.find?_append, List.find?_eq_none.mpr (by simpa using hparts.sent), Option.none_or] at hr
    cases new with
    | nil => cases hr
    | cons y later =>
      rw [List.find?_cons_of_pos (by simp [hparts.unsent y List.mem_cons_self, SendState.sent])] at hr
      injection hr with hr
      exact ⟨later, by rw [hr]⟩
  have hsplit : sendFirst (fun r => !r.send.sent) (.awaiting q.nextSeq) q.records
      = (old ++ [r.withSend (.awaiting q.nextSeq)]) ++ later := by
    rw [hrec, sendFirst_append (fun x hx => by simpa using hparts.sent x hx)
      (by simp [hparts.unsent r List.mem_cons_self, SendState.sent])]
    simp
  have hlength : q.records.length = old.length + (later.length + 1) := by rw [hrec]; simp
  refine ReportQueue.lawful_iff.mpr ⟨_, later, hsplit, ⟨?_, fun x hx => hparts.unsent x (List.mem_cons_of_mem _ hx)⟩, ?_, ?_, ?_, fun _ => by simp⟩
  · rw [List.map_append, hparts.numbers, List.length_append, List.length_singleton]
    exact (sentNumbers_succ q.nextSeq old.length).symm
  · simp only [List.length_append, List.length_singleton]
    omega
  · rw [ReportQueue.sendNew, hsplit]
    simp only [List.length_append, List.length_singleton]
    omega
  · rw [ReportQueue.sendNew, hsplit]
    intro h64
    simp only [List.length_append, List.length_singleton] at h64
    have := hlast (by omega)
    rw [hrec] at this
    rcases List.eq_nil_or_concat later with rfl | ⟨init, last, rfl⟩
    · simp only [List.length_nil] at h64
      omega
    · rw [List.concat_eq_append] at this ⊢
      rw [show old ++ r :: (init ++ [last]) = (old ++ r :: init) ++ [last] by simp, List.getLast?_concat] at this
      rw [← List.append_assoc, List.getLast?_concat]
      exact this

/-- What the offer is: the oldest RESEND record, or within the window the oldest unsent one (R127). -/
theorem ReportQueue.offered_cases {q : ReportQueue} {p : LinkParams} {r : ReportRecord} (h : q.offered p = some r) :
    (∃ n, r.send = .resend n ∧ q.records.find? (·.send.resending) = some r) ∨
    (r.send = .unsent ∧ q.sentCount < p.window ∧ q.records.find? (fun r => !r.send.sent) = some r) := by
  unfold ReportQueue.offered at h
  split at h
  · rename_i x hx
    injection h with h
    subst h
    have := List.find?_some hx
    cases hs : x.send with
    | resend n => exact .inl ⟨n, rfl, hx⟩
    | unsent => simp [hs, SendState.resending] at this
    | awaiting n => simp [hs, SendState.resending] at this
  · split at h
    · have hs := List.find?_some h
      refine .inr ⟨?_, ‹_›, h⟩
      cases hr : r.send with
      | unsent => rfl
      | awaiting n => simp [hr, SendState.sent] at hs
      | resend n => simp [hr, SendState.sent] at hs
    · cases h

/-- The offered record taken keeps the queue lawful (R128). -/
theorem ReportQueue.lawful.send {q : ReportQueue} (h : q.lawful) {p : LinkParams} {r : ReportRecord} {t : Tick}
    (hr : q.offered p = some r) (hw : p.window ≤ 8) : (q.send r p t).2.lawful := by
  rcases ReportQueue.offered_cases hr with ⟨n, hs, hf⟩ | ⟨hs, hcount, hf⟩
  · simp only [ReportQueue.send, hs, SendState.number]
    exact h.sendAgain hf hs
  · simp only [ReportQueue.send, hs, SendState.number]
    exact h.sendNew hf (by omega)

/-! ### Acknowledgement (R130, R131) -/

theorem sentNumbers_drop (next : Byte) {k d : Nat} (h : d ≤ k) : (sentNumbers next k).drop d = sentNumbers next (k - d) := by
  obtain ⟨j, rfl⟩ := Nat.exists_eq_add_of_le h
  apply List.ext_getElem
  · simp [sentNumbers]
  · intro i h1 h2
    simp only [sentNumbers, List.getElem_drop, List.getElem_map, List.getElem_range, Option.some.injEq, Nat.add_sub_cancel_left,
      BitVec.ofNat_add]
    ring

/-- What remains when the oldest sent records are removed. -/
theorem SentThenUnsent.drop {next : Byte} {old new : List ReportRecord} (h : SentThenUnsent next old new) {d : Nat}
    (hd : d ≤ old.length) : SentThenUnsent next (old.drop d) new :=
  ⟨by rw [List.map_drop, h.numbers, sentNumbers_drop next hd, List.length_drop], h.unsent⟩

/-- The number O of R130 in a lawful queue. -/
theorem ReportQueue.lawful.oldestNumber {q : ReportQueue} (h : q.lawful) : q.oldestNumber = q.nextSeq - BitVec.ofNat 8 q.sentCount := by
  obtain ⟨old, new, hrec, hparts, -⟩ := ReportQueue.lawful_iff.mp h
  rw [ReportQueue.oldestNumber, hrec, hparts.oldest, hparts.sentCount hrec]

/-- An ACK within the span removes the acknowledged records; some sent record is left exactly when not all are acknowledged. -/
theorem ReportQueue.lawful.drop_sent {q : ReportQueue} (h : q.lawful) {d : Nat} (hd : d ≤ q.sentCount) :
    (∀ r ∈ q.records.take d, r.send.sent = true) ∧ ((q.records.drop d).filter (·.send.sent)).length = q.sentCount - d ∧
      ((q.records.drop d).any (·.send.sent) = true ↔ d < q.sentCount) := by
  obtain ⟨old, new, hrec, hparts, -⟩ := ReportQueue.lawful_iff.mp h
  rw [hparts.sentCount hrec] at hd ⊢
  have hfilter : ((q.records.drop d).filter (·.send.sent)).length = old.length - d := by
    rw [hrec, List.drop_append_of_le_length hd, filter_sent (hparts.drop hd), List.length_drop]
  refine ⟨fun r hr => ?_, hfilter, ?_⟩
  · rw [hrec, List.take_append_of_le_length hd] at hr
    exact hparts.sent r (List.mem_of_mem_take hr)
  · rw [List.any_eq_true, ← Nat.sub_pos_iff_lt, ← hfilter, List.length_pos_iff_exists_mem]
    simp only [List.mem_filter]

theorem ReportQueue.lawful.acknowledge {q : ReportQueue} (h : q.lawful) (n : Byte) (p : LinkParams) (t : Tick) :
    (q.acknowledge n p t).lawful := by
  unfold ReportQueue.acknowledge
  split
  · exact h
  · rename_i hne
    have hd : q.ackCount n ≤ q.sentCount := by
      unfold ReportQueue.ackCount
      dsimp only
      split <;> omega
    have hany := (h.drop_sent hd).2.2
    obtain ⟨old, new, hrec, hparts, hold, hlen, -, -⟩ := ReportQueue.lawful_iff.mp h
    rw [hparts.sentCount hrec] at hd hany
    have hlength : (q.records.drop (q.ackCount n)).length < 64 := by
      rw [List.length_drop]
      omega
    refine ReportQueue.lawful_iff.mpr ⟨old.drop (q.ackCount n), new, ?_, hparts.drop hd, ?_, hlength.le, fun h64 => ?_, fun ht => ?_⟩
    · change q.records.drop (q.ackCount n) = _
      rw [hrec, List.drop_append_of_le_length hd]
    · rw [List.length_drop]
      omega
    · exact absurd h64 hlength.ne
    · dsimp only at ht
      split at ht
      · rename_i hs
        rw [ne_eq, List.drop_eq_nil_iff]
        exact not_le.mpr (hany.mp hs)
      · cases ht

/-- Settles O26: in a lawful queue O is the next number less the number of sent records, so the span of R130 is the sent part, and an
ACK within it drops that many of them. -/
theorem ackRemovesTheAcknowledged : Obligations.AckRemovesTheAcknowledged := by
  intro q n p t d h hd
  rw [← h.oldestNumber] at hd
  have hcount : q.ackCount n = if d ≤ q.sentCount then d else 0 := by rw [ReportQueue.ackCount, ← hd]
  refine ⟨fun hout => ?_, fun h1 h2 => ?_⟩
  · have : q.ackCount n = 0 := by
      rw [hcount]
      split <;> omega
    rw [ReportQueue.acknowledge, if_pos this]
  · rw [if_pos h2] at hcount
    obtain ⟨hsent, hleft, hany⟩ := h.drop_sent h2
    have hack : q.acknowledge n p t =
        { q with
          records := q.records.drop d, retries := 0
          ackTimer := if d < q.sentCount then some (t + BitVec.ofNat 48 (10000 * p.ack)) else none } := by
      rw [ReportQueue.acknowledge, hcount, if_neg (by omega)]
      simp only [hany]
      rfl
    exact ⟨hsent, by rw [hack]; exact hleft, hack⟩

/-! ### The timer and SYNC (R133 to R135) -/

theorem SendState.retried_number (st : SendState) : st.retried.number = st.number := by cases st <;> rfl

theorem ReportQueue.lawful.retry {q : ReportQueue} (h : q.lawful) (p : LinkParams) (t : Tick) (htimer : q.ackTimer.isSome = true) :
    (q.retry p t).lawful := by
  obtain ⟨old, new, hrec, hparts, hold, hlen, hlast, hne⟩ := ReportQueue.lawful_iff.mp h
  have hnew : new.map (fun r => r.withSend r.send.retried) = new := by
    conv_rhs => rw [← List.map_id new]
    refine List.map_congr_left fun r hr => ?_
    have hu := hparts.unsent r hr
    obtain ⟨body, send, created⟩ := r
    simp only at hu
    subst hu
    rfl
  refine ReportQueue.lawful_iff.mpr
    ⟨old.map fun r => r.withSend r.send.retried, new, ?_, ⟨?_, hparts.unsent⟩, by simpa using hold, by simpa [ReportQueue.retry] using hlen, ?_,
      fun _ => by simpa using hne htimer⟩
  · rw [ReportQueue.retry, hrec, List.map_append, hnew]
  · rw [List.map_map, List.length_map]
    exact (List.map_congr_left fun r _ => r.send.retried_number).trans hparts.numbers
  · intro h64
    have := hlast (by simpa [ReportQueue.retry] using h64)
    simp only [ReportQueue.retry, List.getLast?_map, Option.any_map]
    rw [Option.any_eq_true_iff_get] at this ⊢
    obtain ⟨hs, hf⟩ := this
    refine ⟨hs, ?_⟩
    obtain ⟨hb, hu⟩ := ReportRecord.freshOverflow_iff.mp hf
    exact ReportRecord.freshOverflow_iff.mpr ⟨hb, by simp only [ReportRecord.withSend, hu]; rfl⟩

theorem ReportQueue.lawful.renumber {q : ReportQueue} (h : q.lawful) : q.renumber.lawful := by
  obtain ⟨hlen, hlast, -⟩ := h
  refine ReportQueue.lawful_iff.mpr
    ⟨[], q.renumber.records, rfl, ⟨rfl, ?_⟩, Nat.zero_le _, by simpa [ReportQueue.renumber] using hlen, ?_, fun ht => by cases ht⟩
  · intro r hr
    obtain ⟨x, -, rfl⟩ := List.mem_map.mp hr
    rfl
  · intro h64
    have := hlast (by simpa [ReportQueue.renumber] using h64)
    simp only [ReportQueue.renumber, List.getLast?_map, Option.any_map]
    rw [Option.any_eq_true_iff_get] at this ⊢
    obtain ⟨hs, hf⟩ := this
    obtain ⟨hb, -⟩ := ReportRecord.freshOverflow_iff.mp hf
    exact ⟨hs, ReportRecord.freshOverflow_iff.mpr ⟨hb, rfl⟩⟩

theorem ReportQueue.lawful.expire {q : ReportQueue} (h : q.lawful) (p : LinkParams) (t : Tick) (htimer : q.ackTimer.isSome = true) :
    (q.expire p t).lawful := by
  unfold ReportQueue.expire
  split
  · exact h.retry p t htimer
  · exact h.of_same rfl rfl nofun

theorem ReportQueue.lawful_reset : ReportQueue.reset.lawful := by decide +kernel

end Sys2Proof.Machine
end

section
/-! The law of the Report Queue is kept by every step (O58). -/

namespace Sys2Proof.Machine

theorem reportsLawful_units : KeptByUnits (fun _ => True) State.reportsLawful where
  fits _ _ := trivial
  report _ r _ h := ⟨h.1.take r _, h.2⟩
  axis _ _ _ _ h := h
  scheduler _ _ _ _ h := h
  line _ _ _ _ _ h := h
  capture _ _ _ h := h
  strobe _ _ _ _ _ h := h

/-- A valid window holds at most 8 reports (R160). -/
theorem LinkParams.window_le {p : LinkParams} (h : p.valid = true) : p.window ≤ 8 := by
  simp only [LinkParams.valid, decide_eq_true_eq] at h
  exact h.2.2.2.2.2

theorem State.reportsLawful.enterHold {s : State} (h : s.reportsLawful) (c : HoldCause) : (s.enterHold c).reportsLawful :=
  reportsLawful_units.report _ _ rfl (show ((s.setRnc { state := .hold, cause := c }).driveSafe).reportsLawful from h)

theorem State.reportsLawful.loseSession {s : State} (h : s.reportsLawful) (c : HoldCause) : (s.loseSession c).reportsLawful := by
  obtain ⟨hq, hp⟩ := reportsLawful_units.settled h
  exact State.reportsLawful.enterHold (s := (s.settled.setCmi (s.settled.cmi.lose s.settled.tick)).setRpq s.settled.rpq.sessionLost)
    ⟨hq.of_same rfl rfl nofun, hp⟩ c

theorem State.reportsLawful.takeAck {s : State} (h : s.reportsLawful) (n : Byte) : (s.takeAck n).reportsLawful := by
  unfold State.takeAck
  split
  · exact ⟨h.1.acknowledge n _ _, h.2⟩
  · exact h

theorem State.reportsLawful.frameAccepted {s : State} (h : s.reportsLawful) : s.frameAccepted.reportsLawful := by
  unfold State.frameAccepted
  split <;> exact h

theorem State.reportsLawful.character {s : State} (h : s.reportsLawful) (value : Byte) (mark : Bool) :
    (s.character value mark).reportsLawful := by
  have received : ∀ r, (s.setLrx r).reportsLawful := fun _ => h
  unfold State.character State.handOn
  dsimp only
  split
  · exact received _
  · exact ((received _).takeAck _).frameAccepted
  · exact (received _).frameAccepted

theorem reset_reportsLawful (s : State) (c : ResetCause) (pins : ResetPins) : (s.resetPart c pins).reportsLawful :=
  ⟨ReportQueue.lawful_reset, rfl⟩

/-- The effect of a command keeps the law: the parameters SET_LINK stores are valid, and RUN and HOLD take a report each (R118, R117, R160). -/
theorem CommandEffect.reportsLawful {s t : State} {i : Instr} (ht : CommandEffect s i t) (h : s.reportsLawful) : t.reportsLawful := by
  have hP := reportsLawful_units
  cases ht
  case setLink p hp => exact ⟨h.1, hp⟩
  case maskReports => exact ⟨h.1.of_same rfl rfl id, h.2⟩
  case run => exact hP.catchUpEach _ (hP.report _ _ rfl h)
  case hold => exact h.enterHold _
  case armMarks => exact State.eachMark_keeps (fun _ id hs => hP.armMark id hs) _ h
  case disarmMarks => exact State.eachMark_keeps (fun _ id hs => hP.disarmMark id hs) _ h
  case armGroup => exact hP.armMembers _ h
  case disarmGroup => exact hP.disarmMembers _ h
  case captureNow => exact hP.reportIf _ _ rfl h
  all_goals exact h

theorem EventEffect.reportsLawful {s t : State} {i : Instr} (ht : EventEffect s i t) (h : s.reportsLawful) : t.reportsLawful := by
  have hP := reportsLawful_units
  cases ht
  case hardReset => exact reset_reportsLawful s _ _
  case commandReset => exact reset_reportsLawful s _ _
  case filteredSample => exact hP.filteredSample _ _ _ _ h
  case pinSample => exact hP.pinSample _ _ _ _ h
  case timeCount => exact hP.timeCount _ h
  case stepArrival => exact hP.stepArrival _ _ h
  case jumpArrival => exact hP.jumpArrival _ h
  case strobeEdge => exact hP.strobeEdge _ h
  case qualified => exact hP.qualified _ (fun _ _ => trivial) h
  case strobeGroupArm => exact hP.strobeGroupArm h
  case ackExpiry ht => exact ⟨h.1.expire _ _ (by rw [ht]; rfl), h.2⟩
  case signal => exact ⟨h.1.of_same rfl rfl id, h.2⟩
  case signalLoss k _ _ =>
    have taken : (s.setRpq { s.rpq with signals := k }).reportsLawful := ⟨h.1.of_same rfl rfl id, h.2⟩
    exact taken.loseSession _
  case silenceLoss => exact h.loseSession _
  case character => exact h.character _ _
  case sendReport r hr =>
    unfold State.offered at hr
    split at hr
    · exact ⟨h.1.send hr (LinkParams.window_le h.2), h.2⟩
    · cases hr
  case sync => exact ⟨h.1.renumber, h.2⟩
  case executed e r _ _ ht => exact ht.reportsLawful (State.executedOn_keeps hP.stage i h)
  all_goals exact h

/-- Settles O58: every effect of the list keeps the law, the units' by `reportsLawful_units`, and an idle step does not reach the queue. -/
theorem stepKeepsReportsLawful : Obligations.StepKeepsReportsLawful := by
  intro s t h hstep
  exact step_keeps (P := State.reportsLawful) (fun _ _ _ _ h => h) (fun _ h => h)
    (fun _ _ _ h he => (exec_effect he).reportsLawful h) h hstep

end Sys2Proof.Machine
end

section
/-! The law of the Capture Queue, and the 16-bit counters, are kept by every step (O59). -/

namespace Sys2Proof.Machine

/-! ### The Capture Queue -/

theorem capturesLawful_store {s : State} (h : s.capturesLawful) {x : Capture} (hr : s.cpq.room = true)
    (hx : matchesMask x.mask x.positions) : (s.setCpq (s.cpq.store x)).capturesLawful := by
  obtain ⟨-, -, hmask, hpending⟩ := h
  have hroom : s.cpq.records.length < 128 := of_decide_eq_true hr
  refine ⟨?_, ?_, ?_, hpending⟩
  · simp only [State.setCpq_cpq, CaptureQueue.store, List.length_append, List.length_singleton]
    omega
  · simp [CaptureQueue.store]
  · intro c hc
    simp only [State.setCpq_cpq, CaptureQueue.store, List.mem_append, List.mem_singleton] at hc
    rcases hc with hc | rfl
    · exact hmask c hc
    · exact hx

theorem State.setStrobe_capturesLawful {s : State} (h : s.capturesLawful) (n : StrobeNo) {b : Strobe}
    (hb : ∀ r ∈ b.record, matchesMask b.config.mask r.positions) : (s.setStrobe n b).capturesLawful := by
  obtain ⟨hlen, hnotice, hmask, hpending⟩ := h
  refine ⟨hlen, hnotice, hmask, fun m r hr => ?_⟩
  rw [State.setStrobe_strobe] at hr ⊢
  split at hr
  · rename_i hm
    rw [if_pos hm]
    exact hb r hr
  · rename_i hm
    rw [if_neg hm]
    exact hpending m r hr

theorem capturesLawful_units : KeptByUnits (fun x => matchesMask x.mask x.positions) State.capturesLawful where
  fits _ h := h
  report _ _ _ h := h
  axis _ _ _ _ h := h
  scheduler _ _ _ _ h := h
  line _ _ _ _ _ h := h
  capture s x hx h := by
    split
    · exact capturesLawful_store h ‹_› hx
    · exact h
  strobe _ n _ _ hb h := State.setStrobe_capturesLawful h n hb

/-- A session loss reaches no capture. -/
theorem State.capturesLawful.loseSession {s : State} (h : s.capturesLawful) (c : HoldCause) : (s.loseSession c).capturesLawful := by
  rw [State.loseSession_eq]
  exact capturesLawful_units.settled h

theorem reset_capturesLawful (s : State) (c : ResetCause) (pins : ResetPins) : (s.resetPart c pins).capturesLawful := by
  have hpending : ∀ n : StrobeNo, ((s.resetPart c pins).strobe n).record = none := by
    intro n
    simp [State.strobe, State.resetPart, State.afterReset, State.setPending, State.setPauses, State.setFreeIndex, Strobe.reset]
  refine ⟨Nat.zero_le _, by simp [State.resetPart, State.afterReset, CaptureQueue.reset], nofun, fun n r hr => ?_⟩
  rw [hpending n] at hr
  cases hr

/-- A frame accepted reaches the silence timer and the Report Queue only. -/
theorem State.handOn_eq (s : State) (x : Option Accepted) : ∃ q c, s.handOn x = (s.setRpq q).setCmi c := by
  have accepted : ∀ u : State, ∃ c, u.frameAccepted = u.setCmi c := by
    intro u
    unfold State.frameAccepted
    split
    · exact ⟨_, rfl⟩
    · exact ⟨u.cmi, rfl⟩
  unfold State.handOn
  split
  · exact ⟨s.rpq, s.cmi, rfl⟩
  · unfold State.takeAck
    split
    · obtain ⟨c, hc⟩ := accepted (s.setRpq (s.rpq.acknowledge _ s.cmi.params s.tick))
      exact ⟨_, c, hc⟩
    · obtain ⟨c, hc⟩ := accepted s
      exact ⟨s.rpq, c, hc⟩
  · obtain ⟨c, hc⟩ := accepted s
    exact ⟨s.rpq, c, hc⟩

/-- A character reaches the Link Receiver, the Report Queue and the silence timer only (R141 to R144). -/
theorem State.character_eq (s : State) (value : Byte) (mark : Bool) :
    ∃ q c, s.character value mark = ((s.setLrx ((s.lrx.afterCharacter mark).frame value mark s.tick).1).setRpq q).setCmi c :=
  State.handOn_eq _ _

/-- Removing records from the head keeps the queue's law (R110, R112). -/
theorem capturesLawful_removed {s : State} (h : s.capturesLawful) (k : Nat) : (s.setCpq (s.cpq.removed k)).capturesLawful := by
  obtain ⟨hlen, hnotice, hmask, hpending⟩ := h
  refine ⟨?_, ?_, fun c hc => hmask c (List.mem_of_mem_drop hc), hpending⟩
  · simp only [State.setCpq_cpq, CaptureQueue.removed, List.length_drop]
    omega
  · simp only [State.setCpq_cpq, CaptureQueue.removed, Bool.and_eq_true, hnotice, Bool.not_eq_true', List.isEmpty_eq_false_iff]
    refine ⟨fun hd => hd.2, fun hd => ⟨fun he => hd ?_, hd⟩⟩
    rw [he, List.drop_nil]

theorem CommandEffect.capturesLawful {s t : State} {i : Instr} (ht : CommandEffect s i t) (h : s.capturesLawful) :
    t.capturesLawful := by
  have hP := capturesLawful_units
  cases ht
  case run => exact hP.catchUpEach _ h
  case armMarks => exact State.eachMark_keeps (fun _ id hs => hP.armMark id hs) _ h
  case disarmMarks => exact State.eachMark_keeps (fun _ id hs => hP.disarmMark id hs) _ h
  case armGroup => exact hP.armMembers _ h
  case disarmGroup => exact hP.disarmMembers _ h
  case configStrobe n c => exact State.setStrobe_capturesLawful h n nofun
  case clearGlitches =>
    obtain ⟨hlen, hnotice, hmask, hpending⟩ := h
    refine ⟨hlen, hnotice, hmask, fun n r hr => ?_⟩
    simp only [State.strobe, State.setStrobes, mapUnits_getElem] at hr ⊢
    exact hpending n r hr
  case captureNow mask hr => exact hP.reportIf _ _ rfl (capturesLawful_store h hr (State.positions_matchesMask s mask))
  case readCaptures k => exact capturesLawful_removed h k
  case flushCaptures => exact ⟨Nat.zero_le _, by simp [CaptureQueue.flushed], nofun, h.2.2.2⟩
  all_goals exact h

theorem EventEffect.capturesLawful {s t : State} {i : Instr} (ht : EventEffect s i t) (h : s.capturesLawful) : t.capturesLawful := by
  have hP := capturesLawful_units
  cases ht
  case hardReset => exact reset_capturesLawful s _ _
  case commandReset => exact reset_capturesLawful s _ _
  case filteredSample => exact hP.filteredSample _ _ _ _ h
  case pinSample => exact hP.pinSample _ _ _ _ h
  case timeCount => exact hP.timeCount _ h
  case stepArrival => exact hP.stepArrival _ _ h
  case jumpArrival => exact hP.jumpArrival _ h
  case strobeEdge => exact hP.strobeEdge _ h
  case qualified n => exact hP.qualified n (fun r hr => h.2.2.2 n r hr) h
  case strobeGroupArm => exact hP.strobeGroupArm h
  case signalLoss k _ _ => exact State.capturesLawful.loseSession (s := s.setRpq { s.rpq with signals := k }) h _
  case silenceLoss => exact h.loseSession _
  case character value mark =>
    obtain ⟨q, c, he⟩ := s.character_eq value mark
    rw [he]
    exact h
  case executed e r _ _ ht => exact ht.capturesLawful (State.executedOn_keeps hP.stage i h)
  all_goals exact h

/-! ### Counters -/

theorem bump_le (n : Nat) : bump n ≤ 65535 := Nat.min_le_right _ _

/-- What a request of the owner leaves of a line's configuration and collision count (R86 to R90). -/
theorem Line.request_frame {l l' : Line} {o : Owner} {r : LineRequest} {t : Tick}
    (h : l.request o r t = .taken l' ∨ l.request o r t = .busy l') :
    o = l.owner ∧ (l'.owner, l'.safe, l'.policy) = (l.owner, l.safe, l.policy) ∧
      (l'.collisions = l.collisions ∨ l'.collisions = bump l.collisions) := by
  unfold Line.request at h
  split at h
  · rcases h with h | h <;> cases h
  · rename_i ho
    refine ⟨not_not.mp ho, ?_⟩
    split at h
    · rcases h with h | h <;> cases h
      exact ⟨rfl, .inl rfl⟩
    · rcases h with h | h <;> cases h
      exact ⟨rfl, .inl rfl⟩
    · unfold Line.pulseRequest at h
      split at h
      · rcases h with h | h <;> cases h
        exact ⟨rfl, .inr rfl⟩
      · rcases h with h | h <;> cases h
        exact ⟨rfl, .inl rfl⟩

theorem Line.expire_frame (l : Line) (t : Tick) :
    ((l.expire t).owner, (l.expire t).safe, (l.expire t).policy) = (l.owner, l.safe, l.policy) ∧
      (l.expire t).collisions = l.collisions := by
  unfold Line.expire
  split
  · split <;> exact ⟨rfl, rfl⟩
  · exact ⟨rfl, rfl⟩

/-- A property of every line holds of every line after one line is written with it. -/
theorem State.setLine_all {Q : Line → Prop} {s : State} (h : ∀ n, Q (s.line n)) (n : LineNo) {l : Line} (hl : Q l) (m : LineNo) :
    Q ((s.setLine n l).line m) := by
  rw [State.setLine_line]
  split
  · exact hl
  · exact h m

theorem State.setAxis_all {Q : AxisUnit → Prop} {s : State} (h : ∀ n, Q (s.axis n)) (a : Axis) {u : AxisUnit} (hu : Q u) (m : Axis) :
    Q ((s.setAxis a u).axis m) := by
  rw [State.setAxis_axis]
  split
  · exact hu
  · exact h m

theorem State.setStrobe_all {Q : Strobe → Prop} {s : State} (h : ∀ n, Q (s.strobe n)) (n : StrobeNo) {b : Strobe} (hb : Q b)
    (m : StrobeNo) : Q ((s.setStrobe n b).strobe m) := by
  rw [State.setStrobe_strobe]
  split
  · exact hb
  · exact h m

theorem State.updateAxes_axis (s : State) (mask : BitVec 8) (f : AxisUnit → AxisUnit) (a : Axis) :
    (s.updateAxes mask f).axis a = if mask.getLsbD a.val then f (s.axis a) else s.axis a := by
  simp [State.updateAxes, State.axis, State.setAxes]

/-- The dropped counts of the OVERFLOW records are within 16 bits (R126). -/
def droppedLawful (records : List ReportRecord) : Prop := ∀ r ∈ records, r.body.dropped ≤ 65535

/-- The records of a queue report what those of another report. -/
def BodiesFrom (old new : List ReportRecord) : Prop := ∀ r ∈ new, ∃ x ∈ old, r.body = x.body

theorem droppedLawful.from {old new : List ReportRecord} (h : droppedLawful old) (hf : BodiesFrom old new) : droppedLawful new := by
  intro r hr
  obtain ⟨x, hx, he⟩ := hf r hr
  rw [he]
  exact h x hx

theorem BodiesFrom.withSend (old : List ReportRecord) (f : ReportRecord → SendState) :
    BodiesFrom old (old.map fun r => r.withSend (f r)) := by
  intro r hr
  obtain ⟨x, hx, rfl⟩ := List.mem_map.mp hr
  exact ⟨x, hx, rfl⟩

theorem BodiesFrom.sendFirst (p : ReportRecord → Bool) (st : SendState) (old : List ReportRecord) :
    BodiesFrom old (sendFirst p st old) := by
  induction old with
  | nil => exact nofun
  | cons x rest ih =>
    intro r hr
    rw [Sys2Proof.Machine.sendFirst] at hr
    split at hr
    · rcases List.mem_cons.mp hr with rfl | hr
      · exact ⟨x, List.mem_cons_self, rfl⟩
      · exact ⟨r, List.mem_cons_of_mem _ hr, rfl⟩
    · rcases List.mem_cons.mp hr with rfl | hr
      · exact ⟨r, List.mem_cons_self, rfl⟩
      · obtain ⟨y, hy, he⟩ := ih r hr
        exact ⟨y, List.mem_cons_of_mem _ hy, he⟩

theorem droppedLawful.take {q : ReportQueue} (h : droppedLawful q.records) (r : Report) (t : Tick) (hr : r.dropped = 0) :
    droppedLawful (q.take r t).records := by
  unfold ReportQueue.take
  split
  case isFalse => exact h
  dsimp only
  rcases queueReport_cases q.records r t with ⟨older, newest, x, hq, ha, he⟩ | ⟨-, he⟩
  · obtain ⟨-, -, -, hx⟩ := ReportRecord.absorb_eq_some ha
    rw [he]
    intro y hy
    rcases List.mem_append.mp hy with hy | hy
    · exact h y (by rw [hq]; exact List.mem_append_left _ hy)
    · rw [List.mem_singleton.mp hy, hx]
      exact bump_le _
  · rw [he]
    intro y hy
    rcases List.mem_append.mp hy with hy | hy
    · exact h y hy
    · rw [List.mem_singleton.mp hy, appendedRecord]
      split
      · rw [hr]
        exact Nat.zero_le _
      · exact Nat.le_of_ble_eq_true rfl

theorem droppedLawful.send {q : ReportQueue} (h : droppedLawful q.records) (r : ReportRecord) (p : LinkParams) (t : Tick) :
    droppedLawful (q.send r p t).2.records := by
  unfold ReportQueue.send
  split <;> exact h.from (.sendFirst _ _ _)

theorem droppedLawful.expire {q : ReportQueue} (h : droppedLawful q.records) (p : LinkParams) (t : Tick) :
    droppedLawful (q.expire p t).records := by
  unfold ReportQueue.expire
  split
  · exact h.from (.withSend _ _)
  · exact h

theorem droppedLawful.acknowledge {q : ReportQueue} (h : droppedLawful q.records) (n : Byte) (p : LinkParams) (t : Tick) :
    droppedLawful (q.acknowledge n p t).records := by
  unfold ReportQueue.acknowledge
  split
  · exact h
  · exact fun r hr => h r (List.mem_of_mem_drop hr)

/-- The six discard counters are within 16 bits (R146). -/
def DiscardStats.lawful (d : DiscardStats) : Prop :=
  d.gap ≤ 65535 ∧ d.length ≤ 65535 ∧ d.framing ≤ 65535 ∧ d.crc ≤ 65535 ∧ d.kind ≤ 65535 ∧ d.overrun ≤ 65535

theorem DiscardStats.lawful.count {d : DiscardStats} (h : d.lawful) (c : DiscardCause) : (d.count c).lawful := by
  obtain ⟨h1, h2, h3, h4, h5, h6⟩ := h
  cases c with
  | gap => exact ⟨bump_le _, h2, h3, h4, h5, h6⟩
  | length => exact ⟨h1, bump_le _, h3, h4, h5, h6⟩
  | framing => exact ⟨h1, h2, bump_le _, h4, h5, h6⟩
  | crc => exact ⟨h1, h2, h3, bump_le _, h5, h6⟩
  | kind => exact ⟨h1, h2, h3, h4, bump_le _, h6⟩
  | overrun => exact ⟨h1, h2, h3, h4, h5, bump_le _⟩

theorem LinkReceiver.enqueue_stats {r : LinkReceiver} (h : r.stats.lawful) (e : Entry) : (r.enqueue e).1.stats.lawful := by
  unfold LinkReceiver.enqueue
  split
  · exact h
  · exact h.count _

/-- A character adds at most one discard (R143, R146). -/
theorem LinkReceiver.frame_stats {r : LinkReceiver} (h : r.stats.lawful) (value : Byte) (mark : Bool) (t : Tick) :
    (r.frame value mark t).1.stats.lawful := by
  have complete : ∀ b, (r.complete b).1.stats.lawful := by
    intro b
    unfold LinkReceiver.complete
    split
    · exact h.count _
    · split
      · exact h.count _
      · split
        · exact h
        · split
          · exact LinkReceiver.enqueue_stats h _
          · split
            · exact LinkReceiver.enqueue_stats h _
            · exact h.count _
  unfold LinkReceiver.frame
  split
  · split <;> exact h
  · unfold LinkReceiver.takeHeader
    dsimp only
    split
    · exact h
    · exact h
    · split
      · exact h.count _
      · exact h
  · exact h
  · unfold LinkReceiver.takeCheck
    dsimp only
    split
    · exact h
    · exact complete _

/-- The counters of the part, block by block. -/
structure CountersLawful (s : State) : Prop where
  axes : ∀ a : Axis, (s.axis a).phaseErrors ≤ 65535
  lines : ∀ n : LineNo, (s.line n).collisions ≤ 65535
  strobes : ∀ n : StrobeNo, (s.strobe n).glitches ≤ 65535
  marks : ∀ m ∈ s.mks.marks, m.fires ≤ 65535
  reports : droppedLawful s.rpq.records
  stats : s.lrx.stats.lawful

theorem countersLawful_iff {s : State} : s.countersLawful ↔ CountersLawful s :=
  ⟨fun ⟨h1, h2, h3, h4, h5, h6⟩ => ⟨h1, h2, h3, h4, h5, h6⟩, fun ⟨h1, h2, h3, h4, h5, h6⟩ => ⟨h1, h2, h3, h4, h5, h6⟩⟩

theorem FiresFrom.le {old new : List Mark} (hf : FiresFrom old new) (h : ∀ m ∈ old, m.fires ≤ 65535) : ∀ m ∈ new, m.fires ≤ 65535 := by
  intro m hm
  rcases hf m hm with he | ⟨x, hx, he | he⟩ <;> rw [he]
  · exact Nat.zero_le _
  · exact h x hx
  · exact bump_le _

theorem countersLawful_units : KeptByUnits (fun _ => True) CountersLawful where
  fits _ _ := trivial
  report s r hr h := { h with reports := h.reports.take r s.tick hr }
  axis s a u hu h := { h with
    axes := State.setAxis_all (Q := fun u => u.phaseErrors ≤ 65535) h.axes a (by
      rcases hu with hu | hu | hu <;> rw [hu]
      · exact h.axes a
      · exact bump_le _
      · exact Nat.zero_le _) }
  scheduler s k c hk h := { h with marks := hk.le h.marks }
  line s n r l hl h := { h with
    lines := State.setLine_all (Q := fun l => l.collisions ≤ 65535) h.lines n (by
      obtain ⟨-, -, hc | hc⟩ := Line.request_frame hl <;> rw [hc]
      · exact h.lines n
      · exact bump_le _) }
  capture s x _ h := { h with }
  strobe s n b hb _ h := { h with
    strobes := State.setStrobe_all (Q := fun b => b.glitches ≤ 65535) h.strobes n (by
      rcases hb with hb | hb <;> rw [hb]
      · exact h.strobes n
      · exact bump_le _) }

theorem CountersLawful.enterHold {s : State} (h : CountersLawful s) (c : HoldCause) : CountersLawful (s.enterHold c) := by
  refine countersLawful_units.report _ _ rfl { h with lines := fun n => ?_ }
  simp only [State.driveSafe, State.line, State.setLines, mapUnits_getElem]
  exact h.lines n

theorem CountersLawful.loseSession {s : State} (h : CountersLawful s) (c : HoldCause) : CountersLawful (s.loseSession c) := by
  have hs := countersLawful_units.settled h
  have lost : CountersLawful ((s.settled.setCmi (s.settled.cmi.lose s.settled.tick)).setRpq s.settled.rpq.sessionLost) := { hs with }
  exact lost.enterHold c

theorem reset_countersLawful (s : State) (c : ResetCause) (pins : ResetPins) : CountersLawful (s.resetPart c pins) where
  axes a := by simp [State.axis, State.resetPart, State.afterReset, State.setPending, State.setPauses, State.setFreeIndex, AxisUnit.reset]
  lines n := by simp [State.line, State.resetPart, State.afterReset, State.setPending, State.setPauses, State.setFreeIndex, Line.reset]
  strobes n := by
    simp [State.strobe, State.resetPart, State.afterReset, State.setPending, State.setPauses, State.setFreeIndex, Strobe.reset]
  marks := nofun
  reports := nofun
  stats := by simp [State.resetPart, State.afterReset, LinkReceiver.reset, DiscardStats.reset, DiscardStats.lawful]

theorem CountersLawful.character {s : State} (h : CountersLawful s) (value : Byte) (mark : Bool) :
    CountersLawful (s.character value mark) := by
  have received : CountersLawful (s.setLrx ((s.lrx.afterCharacter mark).frame value mark s.tick).1) :=
    { h with stats := LinkReceiver.frame_stats (r := s.lrx.afterCharacter mark) h.stats value mark s.tick }
  have accepted : ∀ u : State, CountersLawful u → CountersLawful u.frameAccepted := by
    intro u hu
    unfold State.frameAccepted
    split
    · exact { hu with }
    · exact hu
  unfold State.character State.handOn
  dsimp only
  split
  · exact received
  · refine accepted _ ?_
    unfold State.takeAck
    split
    · exact { received with reports := droppedLawful.acknowledge received.reports _ _ _ }
    · exact received
  · exact accepted _ received

theorem MarkFields.mark_fires {f : MarkFields} {id : MarkId} {config : Axis → AxisConfig} {m : Mark} (h : f.mark id config = some m) :
    m.id = id ∧ m.state = .disarmed ∧ m.fires = 0 ∧ m.lastFire = none := by
  obtain ⟨_, _, _, _, _, _, -, -, -, -, -, -, -, -, rfl⟩ := MarkFields.mark_eq_some.mp h
  exact ⟨rfl, rfl, rfl, rfl⟩

theorem CommandEffect.countersLawful {s t : State} {i : Instr} (ht : CommandEffect s i t) (h : CountersLawful s) : CountersLawful t := by
  have hP := countersLawful_units
  cases ht
  case run =>
    have entered : CountersLawful (s.setRnc { s.rnc with state := .run }) := { h with }
    exact hP.catchUpEach _ (hP.report _ _ rfl entered)
  case hold => exact h.enterHold _
  case clearStats => exact { h with stats := (reset_countersLawful s .hard ResetPins.allLow).stats }
  case configAxis => exact hP.axis s _ _ (.inr (.inr rfl)) h
  case presetAxis => exact hP.axis s _ _ (.inl rfl) h
  case readAxes =>
    refine { h with axes := fun a => ?_ }
    rw [State.updateAxes_axis]
    split
    · exact Nat.zero_le _
    · exact h.axes a
  case clearAxisFault =>
    refine { h with axes := fun a => ?_ }
    rw [State.updateAxes_axis]
    split <;> exact h.axes a
  case homeAxis => exact hP.axis s _ _ (.inl rfl) h
  case defineMark m f id config _ hm _ => exact hP.setMks _ (.putRecord (.inl (MarkFields.mark_fires hm).2.2.1)) h
  case deleteMark id => exact hP.setMks _ (.eraseRecord _ id) h
  case armMarks => exact State.eachMark_keeps (fun _ id hs => hP.armMark id hs) _ h
  case disarmMarks => exact State.eachMark_keeps (fun _ id hs => hP.disarmMark id hs) _ h
  case armGroup => exact hP.armMembers _ h
  case disarmGroup => exact hP.disarmMembers _ h
  case moveMark id m moved relative v hm hmove => exact hP.putMark moved m hm (Mark.move_fires hmove) h
  case configLine n o v p =>
    exact { h with lines := State.setLine_all (Q := fun l => l.collisions ≤ 65535) h.lines n (h.lines n) }
  case driveLine n r l hl =>
    refine { h with lines := State.setLine_all (Q := fun l => l.collisions ≤ 65535) h.lines n ?_ }
    obtain ⟨-, -, hc | hc⟩ := Line.request_frame hl <;> rw [hc]
    · exact h.lines n
    · exact bump_le _
  case clearCollisions =>
    refine { h with lines := fun n => ?_ }
    simp [State.line, State.setLines, State.setFreeIndex, Line.clearCount]
  case configStrobe n c => exact hP.strobe s n _ (.inl rfl) nofun h
  case clearGlitches =>
    refine { h with strobes := fun n => ?_ }
    simp [State.strobe, State.setStrobes, Strobe.clearCount]
  case captureNow => exact hP.reportIf (s := s.setCpq _) _ _ rfl { h with }
  case same => exact h
  all_goals exact { h with }

theorem EventEffect.countersLawful {s t : State} {i : Instr} (ht : EventEffect s i t) (h : CountersLawful s) : CountersLawful t := by
  have hP := countersLawful_units
  cases ht
  case absent => exact h
  case hardReset => exact reset_countersLawful s _ _
  case commandReset => exact reset_countersLawful s _ _
  case filteredSample => exact hP.filteredSample _ _ _ _ h
  case pinSample => exact hP.pinSample _ _ _ _ h
  case timeCount => exact hP.timeCount _ h
  case stepArrival => exact hP.stepArrival (s := s.setPauses _) _ _ { h with }
  case jumpArrival => exact hP.jumpArrival _ h
  case strobeEdge => exact hP.strobeEdge _ h
  case qualified => exact hP.qualified _ (fun _ _ => trivial) h
  case strobeGroupArm => exact hP.strobeGroupArm h
  case pulseEnd n =>
    refine { h with lines := State.setLine_all (Q := fun l => l.collisions ≤ 65535) h.lines n ?_ }
    rw [(Line.expire_frame _ _).2]
    exact h.lines n
  case ackExpiry => exact { h with reports := h.reports.expire _ _ }
  case signalLoss k _ _ =>
    have taken : CountersLawful (s.setRpq { s.rpq with signals := k }) := { h with }
    exact taken.loseSession _
  case silenceLoss => exact h.loseSession _
  case character => exact h.character _ _
  case gapExpiry => exact { h with stats := h.stats.count _ }
  case sendReport r _ => exact { h with reports := h.reports.send r _ _ }
  case sync => exact { h with reports := h.reports.from (.withSend _ fun _ => .unsent) }
  case executed e r _ _ ht =>
    have dropped : CountersLawful s.dropEntry := { h with }
    exact { ht.countersLawful (State.executedOn_keeps hP.stage i dropped) with }
  all_goals exact { h with }

/-- Settles O59: every effect of the list keeps the two laws, and an idle step moves no capture and no counter. -/
theorem stepKeepsCapturesAndCounters : Obligations.StepKeepsCapturesAndCounters := by
  refine ⟨fun s t h hstep => ?_, fun s t h hstep => countersLawful_iff.mpr ?_⟩
  · exact step_keeps (P := State.capturesLawful) (fun _ _ _ _ h => h) (fun _ h => h)
      (fun _ _ _ h he => (exec_effect he).capturesLawful h) h hstep
  · exact step_keeps (P := CountersLawful) (fun _ _ _ _ h => { h with }) (fun _ h => { h with })
      (fun _ _ _ h he => (exec_effect he).countersLawful h) (countersLawful_iff.mp h) hstep

end Sys2Proof.Machine
end

section
/-! The law of the session, its timers and the reply slot, and the law of the Link Receiver, are kept by every step (O60). -/

namespace Sys2Proof.Machine

/-! ### The session and its timers -/

/-- The epoch and the timers of a session (R150, R153, R157, R129). -/
structure SessionTimers (s : State) : Prop where
  epoch : s.cmi.epoch = 0 ↔ s.cmi.session = .noSession
  beacon : s.cmi.beaconTimer.isSome = true ↔ s.cmi.session ≠ .opened
  silence : s.cmi.silenceTimer.isSome = true → s.cmi.session = .opened
  ack : s.rpq.ackTimer.isSome = true → s.cmi.session = .opened

/-- The reply slot behind a REPLY on the line and behind a command reset that is due (R148, R163). -/
structure SlotLaw (s : State) : Prop where
  sending : ∀ x ∈ s.ltx.sending, x.frame.kind = .reply → s.ltx.slot.isSome = true
  due : s.cmi.resetDue = true → s.ltx.slot.isSome = true

theorem sessionLawful_iff {s : State} : s.sessionLawful ↔ SessionTimers s ∧ SlotLaw s :=
  ⟨fun ⟨h1, h2, h3, h4, h5, h6⟩ => ⟨⟨h1, h2, h3, h4⟩, ⟨h5, h6⟩⟩, fun ⟨⟨h1, h2, h3, h4⟩, ⟨h5, h6⟩⟩ => ⟨h1, h2, h3, h4, h5, h6⟩⟩

theorem ReportQueue.take_ackTimer (q : ReportQueue) (r : Report) (t : Tick) : (q.take r t).ackTimer = q.ackTimer := by
  rw [ReportQueue.take_frame]

theorem sessionTimers_units : KeptByUnits (fun _ => True) SessionTimers where
  fits _ _ := trivial
  report s r _ h := { h with ack := fun ht => h.ack (by rwa [← ReportQueue.take_ackTimer s.rpq r s.tick]) }
  axis _ _ _ _ h := { h with }
  scheduler _ _ _ _ h := { h with }
  line _ _ _ _ _ h := { h with }
  capture _ _ _ h := { h with }
  strobe _ _ _ _ _ h := { h with }

theorem slotLaw_units : KeptByUnits (fun _ => True) SlotLaw where
  fits _ _ := trivial
  report _ _ _ h := { h with }
  axis _ _ _ _ h := { h with }
  scheduler _ _ _ _ h := { h with }
  line _ _ _ _ _ h := { h with }
  capture _ _ _ h := { h with }
  strobe _ _ _ _ _ h := { h with }

theorem SessionTimers.enterHold {s : State} (h : SessionTimers s) (c : HoldCause) : SessionTimers (s.enterHold c) :=
  sessionTimers_units.report _ _ rfl { h with }

/-- An OPEN session has an epoch other than 0. -/
theorem SessionTimers.epoch_ne_zero {s : State} (h : SessionTimers s) (ho : s.cmi.session = .opened) : s.cmi.epoch ≠ 0 := by
  rw [ne_eq, h.epoch, ho]
  decide

/-- A session loss in OPEN: the beacon runs, the other two timers are stopped (R158). -/
theorem SessionTimers.loseSession {s : State} (h : SessionTimers s) (ho : s.cmi.session = .opened) (c : HoldCause) :
    SessionTimers (s.loseSession c) := by
  obtain ⟨⟨-, -, -, -, -, -, -, hcmi, -⟩, -⟩ := s.settled_frame
  have hne : s.settled.cmi.epoch ≠ 0 := hcmi ▸ h.epoch_ne_zero ho
  rw [State.loseSession_eq]
  exact
    { epoch := ⟨fun h0 => absurd h0 hne, nofun⟩
      beacon := ⟨fun _ => nofun, fun _ => rfl⟩
      silence := nofun
      ack := fun ht => by
        rw [ReportQueue.take_ackTimer] at ht
        cases ht }

theorem SlotLaw.loseSession {s : State} (h : SlotLaw s) (c : HoldCause) : SlotLaw (s.loseSession c) := by
  have hs := slotLaw_units.settled h
  rw [State.loseSession_eq]
  exact { hs with }

theorem reset_sessionTimers (s : State) (c : ResetCause) (pins : ResetPins) : SessionTimers (s.resetPart c pins) where
  epoch := ⟨fun _ => rfl, fun _ => rfl⟩
  beacon := ⟨fun _ => nofun, fun _ => rfl⟩
  silence := nofun
  ack := nofun

theorem reset_slotLaw (s : State) (c : ResetCause) (pins : ResetPins) : SlotLaw (s.resetPart c pins) where
  sending := nofun
  due := nofun

/-- An accepted frame restarts the silence timer in OPEN only, and an ACK reaches the acknowledgement timer in OPEN only (R129, R157). -/
theorem SessionTimers.handOn {s : State} (h : SessionTimers s) (x : Option Accepted) : SessionTimers (s.handOn x) := by
  have accepted : ∀ u : State, SessionTimers u → SessionTimers u.frameAccepted := by
    intro u hu
    unfold State.frameAccepted
    split
    · rename_i ho
      exact { hu with silence := fun _ => ho.1 }
    · exact hu
  unfold State.handOn
  split
  · exact h
  · refine accepted _ ?_
    unfold State.takeAck
    split
    · rename_i ho
      exact { h with ack := fun _ => ho }
    · exact h
  · exact accepted _ h

theorem nextEpoch_ne_zero (e : Byte) : nextEpoch e ≠ 0 := by
  revert e
  decide +kernel

/-- A SYNC opens a session: an epoch other than 0, no beacon (R152). -/
theorem openSession_sessionTimers (s : State) : SessionTimers s.openSession where
  epoch := ⟨fun h0 => absurd h0 (nextEpoch_ne_zero _), nofun⟩
  beacon := ⟨nofun, fun hne => absurd rfl hne⟩
  silence _ := rfl
  ack := nofun

/-- The effect of a command, which is executed in OPEN, keeps the epoch and the timers; SET_LINK sets the silence timer (R160). -/
theorem CommandEffect.sessionTimers {s t : State} {i : Instr} (ht : CommandEffect s i t) (ho : s.cmi.session = .opened)
    (h : SessionTimers s) : SessionTimers t := by
  have hP := sessionTimers_units
  cases ht
  case setLink => exact { h with silence := fun _ => ho }
  case run =>
    have entered : SessionTimers (s.setRnc { s.rnc with state := .run }) := { h with }
    exact hP.catchUpEach _ (hP.report _ _ rfl entered)
  case hold => exact h.enterHold _
  case armMarks => exact State.eachMark_keeps (fun _ id hs => hP.armMark id hs) _ h
  case disarmMarks => exact State.eachMark_keeps (fun _ id hs => hP.disarmMark id hs) _ h
  case armGroup => exact hP.armMembers _ h
  case disarmGroup => exact hP.disarmMembers _ h
  case captureNow => exact hP.reportIf (s := s.setCpq _) _ _ rfl { h with }
  all_goals exact { h with }

/-- A report is offered in OPEN only (R129). -/
theorem State.offered_session {s : State} {r : ReportRecord} (h : s.offered = some r) : s.cmi.session = .opened := by
  unfold State.offered at h
  split at h
  · rename_i ho
    exact ho.1
  · cases h

theorem EventEffect.sessionTimers {s t : State} {i : Instr} (ht : EventEffect s i t) (h : SessionTimers s) : SessionTimers t := by
  have hP := sessionTimers_units
  cases ht
  case absent => exact h
  case hardReset => exact reset_sessionTimers s _ _
  case commandReset => exact reset_sessionTimers s _ _
  case filteredSample => exact hP.filteredSample _ _ _ _ h
  case pinSample => exact hP.pinSample _ _ _ _ h
  case timeCount => exact hP.timeCount _ h
  case stepArrival => exact hP.stepArrival (s := s.setPauses _) _ _ { h with }
  case jumpArrival => exact hP.jumpArrival _ h
  case strobeEdge => exact hP.strobeEdge _ h
  case qualified => exact hP.qualified _ (fun _ _ => trivial) h
  case strobeGroupArm => exact hP.strobeGroupArm h
  case ackExpiry hd => exact { h with ack := fun _ => h.ack (by rw [hd]; rfl) }
  case signalLoss k _ ho =>
    have taken : SessionTimers (s.setRpq { s.rpq with signals := k }) := { h with }
    exact taken.loseSession ho _
  case silenceLoss ho => exact h.loseSession ho _
  case beacon ho => exact { h with beacon := ⟨fun _ => ho, fun _ => rfl⟩ }
  case character =>
    have received : ∀ r, SessionTimers (s.setLrx r) := fun _ => { h with }
    exact (received _).handOn _
  case sendReport hr =>
    have ho : s.cmi.session = .opened := State.offered_session hr
    exact { h with ack := fun _ => ho }
  case sync => exact openSession_sessionTimers _
  case executed ho _ ht =>
    have dropped : SessionTimers s.dropEntry := { h with }
    have hopen : (s.dropEntry.executedOn i).cmi.session = .opened :=
      State.executedOn_keeps (P := fun u => u.cmi.session = .opened)
        (fun u hu => by obtain ⟨-, -, -, -, -, -, -, hcmi, -⟩ := u.stage_sameLink; rwa [hcmi]) i ho
    exact { ht.sessionTimers hopen (State.executedOn_keeps hP.stage i dropped) with }
  all_goals exact { h with }

/-! ### The reply slot -/

/-- With a REPLY placed the slot is full. -/
theorem placeReply_slotLaw (s : State) (r : Reply) : SlotLaw (s.placeReply r) where
  sending _ _ _ := rfl
  due _ := rfl

theorem EventEffect.slotLaw {s t : State} {i : Instr} (ht : EventEffect s i t) (h : SlotLaw s) : SlotLaw t := by
  have hP := slotLaw_units
  cases ht
  case absent => exact h
  case hardReset => exact reset_slotLaw s _ _
  case commandReset => exact reset_slotLaw s _ _
  case filteredSample => exact hP.filteredSample _ _ _ _ h
  case pinSample => exact hP.pinSample _ _ _ _ h
  case timeCount => exact hP.timeCount _ h
  case stepArrival => exact hP.stepArrival (s := s.setPauses _) _ _ { h with }
  case jumpArrival => exact hP.jumpArrival _ h
  case strobeEdge => exact hP.strobeEdge _ h
  case qualified => exact hP.qualified _ (fun _ _ => trivial) h
  case strobeGroupArm => exact hP.strobeGroupArm h
  case signalLoss k _ ho =>
    have taken : SlotLaw (s.setRpq { s.rpq with signals := k }) := { h with }
    exact taken.loseSession _
  case silenceLoss => exact h.loseSession _
  case character value mark =>
    obtain ⟨q, c, he⟩ := State.handOn_eq (s.setLrx ((s.lrx.afterCharacter mark).frame value mark s.tick).1)
      ((s.lrx.afterCharacter mark).frame value mark s.tick).2
    have hdue : (s.character value mark).cmi.resetDue = s.cmi.resetDue := by
      unfold State.character State.handOn State.takeAck State.frameAccepted
      dsimp only
      split
      · rfl
      · split <;> split <;> rfl
      · split <;> rfl
    have hltx : (s.character value mark).ltx = s.ltx := (congrArg State.ltx he :)
    exact ⟨by rw [hltx]; exact h.sending, by rw [hltx, hdue]; exact h.due⟩
  case sendReply r hr => exact ⟨fun _ _ _ => by rw [State.setLtx_ltx, LinkTransmitter.start, hr]; rfl, h.due⟩
  case sendHello =>
    refine ⟨fun x hx hk => ?_, h.due⟩
    cases hx
    cases hk
  case sendReport =>
    refine ⟨fun x hx hk => ?_, h.due⟩
    cases hx
    cases hk
  case replyDone pins hd => exact ⟨nofun, fun hdue => absurd hdue (by rw [State.setLtx_cmi, hd]; decide)⟩
  case otherDone => exact ⟨nofun, h.due⟩
  case answered => exact placeReply_slotLaw _ _
  case executed => exact { placeReply_slotLaw _ _ with }
  all_goals exact { h with }

/-- The clock moves the count of sent bytes of the frame on the line, and not the frame. -/
theorem SlotLaw.nextTick {s : State} (h : SlotLaw s) : SlotLaw s.nextTick := by
  refine ⟨fun x hx hk => ?_, h.due⟩
  obtain ⟨y, hy, rfl⟩ := Option.map_eq_some_iff.mp hx
  exact h.sending y hy hk

/-! ### The Link Receiver -/

theorem LinkReceiver.lawful_units : KeptByUnits (fun _ => True) (fun s => s.lrx.lawful) where
  fits _ _ := trivial
  report _ _ _ h := h
  axis _ _ _ _ h := h
  scheduler _ _ _ _ h := h
  line _ _ _ _ _ h := h
  capture _ _ _ h := h
  strobe _ _ _ _ _ h := h

/-- A receiver back in HUNT is lawful when its inbound queue is (R143). -/
theorem LinkReceiver.lawful.hunting {r : LinkReceiver} (h : r.lawful) : r.toHunt.lawful :=
  ⟨h.1, h.2.1, by simp [LinkReceiver.bufferLawful, LinkReceiver.toHunt]⟩

theorem LinkReceiver.lawful.discard {r : LinkReceiver} (h : r.lawful) (c : DiscardCause) : (r.discard c).lawful :=
  ⟨h.1, h.2.1, h.hunting.2.2⟩

/-- The hand-off of an entry of at most 240 payload bytes (R145). -/
theorem LinkReceiver.lawful.enqueue {r : LinkReceiver} (h : r.lawful) (e : Entry) (he : e.payload.length ≤ 240) :
    (r.enqueue e).1.lawful := by
  unfold LinkReceiver.enqueue
  split
  · rename_i hroom
    refine ⟨?_, ?_, h.hunting.2.2⟩
    · have : r.inbound.length < 4 := hroom
      simp only [List.length_append, List.length_singleton]
      omega
    · intro x hx
      rcases List.mem_append.mp hx with hx | hx
      · exact h.2.1 x hx
      · rw [List.mem_singleton.mp hx]
        exact he
  · exact h.discard _

theorem LinkReceiver.lawful.complete {r : LinkReceiver} (h : r.lawful) (b : Assembly) (hb : b.payload.length ≤ 240) :
    (r.complete b).1.lawful := by
  unfold LinkReceiver.complete
  split
  · exact h.discard _
  · split
    · exact h.discard _
    · split
      · exact h.hunting
      · split
        · exact h.enqueue _ hb
        · split
          · exact h.enqueue _ hb
          · exact h.discard _

/-- The law of the assembly buffer, state by state (Table 9-1). -/
theorem LinkReceiver.lawful.buffer {r : LinkReceiver} (h : r.lawful) :
    match r.state with
    | .hunt => r.buffer = .empty ∧ r.gapTimer = none
    | .header => r.buffer.payload = [] ∧ r.buffer.crcCount = 0
    | .payload => r.buffer.length.toNat ≤ 240 ∧ r.buffer.payload.length < r.buffer.length.toNat ∧ r.buffer.crcCount = 0
    | .check => r.buffer.length.toNat ≤ 240 ∧ r.buffer.payload.length = r.buffer.length.toNat := by
  obtain ⟨-, -, hb⟩ := h
  unfold LinkReceiver.bufferLawful at hb
  cases hs : r.state <;> rw [hs] at hb <;> exact of_decide_eq_true hb

/-- A character keeps the law of the receiver (R141, R143, Table 9-1). -/
theorem LinkReceiver.lawful.frame {r : LinkReceiver} (h : r.lawful) (value : Byte) (mark : Bool) (t : Tick) :
    (r.frame value mark t).1.lawful := by
  have hb := h.buffer
  have store : ∀ (st : RxState) (b : Assembly), (r.stored st b t).bufferLawful = true → (r.stored st b t).lawful :=
    fun st b hok => ⟨h.1, h.2.1, hok⟩
  unfold LinkReceiver.frame
  cases hs : r.state <;> rw [hs] at hb <;> dsimp only at hb ⊢
  case hunt =>
    split
    · exact store _ _ rfl
    · exact h
  case header =>
    obtain ⟨hpay, hcrc⟩ := hb
    unfold LinkReceiver.takeHeader
    dsimp only
    split
    · exact store _ _ (decide_eq_true ⟨hpay, hcrc⟩)
    · exact store _ _ (decide_eq_true ⟨hpay, hcrc⟩)
    · split
      · exact h.discard _
      · rename_i hlen
        have hlen : value.toNat ≤ 240 := not_lt.mp hlen
        refine store _ _ ?_
        by_cases hv : value = 0
        · rw [if_pos hv]
          refine decide_eq_true ⟨hlen, ?_⟩
          change r.buffer.payload.length = value.toNat
          rw [hpay, hv]
          rfl
        · rw [if_neg hv]
          refine decide_eq_true ⟨hlen, ?_, hcrc⟩
          change r.buffer.payload.length < value.toNat
          rw [hpay]
          exact Nat.pos_of_ne_zero fun h0 => hv (BitVec.eq_of_toNat_eq h0)
  case payload =>
    obtain ⟨hlen, hshort, hcrc⟩ := hb
    have hstep : (r.buffer.payload ++ [value]).length = r.buffer.payload.length + 1 := List.length_append
    refine store _ _ ?_
    dsimp only
    split
    · rename_i hmore
      exact decide_eq_true ⟨hlen, hmore, hcrc⟩
    · rename_i hfull
      have hfull : ¬ (r.buffer.payload ++ [value]).length < r.buffer.length.toNat := hfull
      exact decide_eq_true ⟨hlen, show (r.buffer.payload ++ [value]).length = r.buffer.length.toNat by omega⟩
  case check =>
    obtain ⟨hlen, hfull⟩ := hb
    unfold LinkReceiver.takeCheck
    dsimp only
    split
    · exact store _ _ (decide_eq_true ⟨hlen, hfull⟩)
    · exact h.complete _ (show r.buffer.payload.length ≤ 240 by omega)

theorem LinkReceiver.lawful_reset (rate : LinkRate) : (LinkReceiver.reset rate).lawful :=
  ⟨Nat.zero_le _, nofun, by simp [LinkReceiver.bufferLawful, LinkReceiver.reset]⟩

theorem State.dropEntry_lawful {s : State} (h : s.lrx.lawful) : s.dropEntry.lrx.lawful := by
  obtain ⟨hlen, hpay, hb⟩ := h
  refine ⟨?_, fun e he => hpay e (List.mem_of_mem_tail he), hb⟩
  simp only [State.dropEntry, State.setLrx_lrx, List.length_tail]
  omega

theorem CommandEffect.receiverLawful {s t : State} {i : Instr} (ht : CommandEffect s i t) (h : s.lrx.lawful) : t.lrx.lawful := by
  have hP := LinkReceiver.lawful_units
  cases ht
  case run => exact hP.catchUpEach _ (hP.report _ _ rfl (show (s.setRnc _).lrx.lawful from h))
  case armMarks => exact State.eachMark_keeps (P := fun s => s.lrx.lawful) (fun _ id hs => hP.armMark id hs) _ h
  case disarmMarks => exact State.eachMark_keeps (P := fun s => s.lrx.lawful) (fun _ id hs => hP.disarmMark id hs) _ h
  case armGroup => exact hP.armMembers _ h
  case disarmGroup => exact hP.disarmMembers _ h
  case captureNow => exact hP.reportIf (s := s.setCpq _) _ _ rfl h
  all_goals exact h

theorem EventEffect.receiverLawful {s t : State} {i : Instr} (ht : EventEffect s i t) (h : s.lrx.lawful) : t.lrx.lawful := by
  have hP := LinkReceiver.lawful_units
  cases ht
  case hardReset => exact LinkReceiver.lawful_reset _
  case commandReset => exact LinkReceiver.lawful_reset _
  case filteredSample => exact hP.filteredSample _ _ _ _ h
  case pinSample => exact hP.pinSample _ _ _ _ h
  case timeCount => exact hP.timeCount _ h
  case stepArrival => exact hP.stepArrival (s := s.setPauses _) _ _ h
  case jumpArrival => exact hP.jumpArrival _ h
  case strobeEdge => exact hP.strobeEdge _ h
  case qualified => exact hP.qualified _ (fun _ _ => trivial) h
  case strobeGroupArm => exact hP.strobeGroupArm h
  case signalLoss k _ _ =>
    rw [State.loseSession_eq]
    exact hP.settled (s := s.setRpq { s.rpq with signals := k }) h
  case silenceLoss =>
    rw [State.loseSession_eq]
    exact hP.settled h
  case character value mark =>
    obtain ⟨q, c, he⟩ := s.character_eq value mark
    rw [he]
    exact LinkReceiver.lawful.frame (r := s.lrx.afterCharacter mark) h value mark s.tick
  case gapExpiry => exact h.discard _
  case startBit =>
    have hb := h.buffer
    refine ⟨h.1, h.2.1, ?_⟩
    unfold LinkReceiver.bufferLawful
    cases hs : s.lrx.state <;> rw [hs] at hb <;> simp only [State.setLrx_lrx, hs]
    case hunt => exact decide_eq_true ⟨hb.1, trivial⟩
    all_goals exact decide_eq_true hb
  case sync => exact State.dropEntry_lawful h
  case answered => exact State.dropEntry_lawful h
  case executed ht =>
    exact ht.receiverLawful (State.executedOn_keeps (P := fun s => s.lrx.lawful) hP.stage i (State.dropEntry_lawful h))
  all_goals exact h

/-- Settles O60: every effect of the list keeps the epoch and the timers, the slot, and the receiver; of these an idle step moves only the
count of sent bytes. -/
theorem stepKeepsSessionAndReceiver : Obligations.StepKeepsSessionAndReceiver := by
  refine ⟨fun s t h hstep => sessionLawful_iff.mpr ⟨?_, ?_⟩, fun s t h hstep => ?_⟩
  · exact step_keeps (P := SessionTimers) (fun _ _ _ _ h => { h with }) (fun _ h => { h with })
      (fun _ _ _ h he => (exec_effect he).sessionTimers h) (sessionLawful_iff.mp h).1 hstep
  · exact step_keeps (P := SlotLaw) (fun _ _ _ _ h => { h with }) (fun _ h => h.nextTick)
      (fun _ _ _ h he => (exec_effect he).slotLaw h) (sessionLawful_iff.mp h).2 hstep
  · exact step_keeps (P := fun s => s.lrx.lawful) (fun _ _ _ _ h => h) (fun _ h => h)
      (fun _ _ _ h he => (exec_effect he).receiverLawful h) h hstep

end Sys2Proof.Machine
end

section
/-! What a sample, a count, an index event and a strobe event leave unchanged: they move axes or strobes, take reports and captures, and reach
no record, no arrival and no line. -/

namespace Sys2Proof.Machine

/-! ### Axis events -/

/-- A unit moved within its range: its kind and modulus stay, and it stays lawful (R14). -/
structure AxisUnit.Moved (u v : AxisUnit) : Prop where
  kind : v.config.kind = u.config.kind
  modulus : v.config.modulus = u.config.modulus
  lawful : u.lawful → v.lawful

theorem AxisUnit.Moved.refl (u : AxisUnit) : u.Moved u := ⟨rfl, rfl, id⟩

theorem AxisUnit.Moved.trans {u v w : AxisUnit} (h : u.Moved v) (k : v.Moved w) : u.Moved w :=
  ⟨k.kind.trans h.kind, k.modulus.trans h.modulus, k.lawful ∘ h.lawful⟩

/-- A unit with the same record at a position in range. -/
theorem AxisUnit.Moved.of_pos {u v : AxisUnit} (hc : v.config = u.config) (hp : u.lawful → u.config.inRange v.pos = true) :
    u.Moved v := by
  refine ⟨by rw [hc], by rw [hc], fun h => ?_⟩
  have hv := hp h
  obtain ⟨-, hm, hi⟩ := h
  exact ⟨by rw [hc]; exact hv, by rw [hc]; exact hm, by rw [hc]; exact hi⟩

theorem AxisUnit.Moved.of_same {u v : AxisUnit} (hc : v.config = u.config) (hp : v.pos = u.pos) : u.Moved v :=
  .of_pos hc fun hu => by rw [hp]; exact hu.1

/-- Axes moved and reports taken, and nothing else changed. -/
structure State.AxisMotion (s t : State) : Prop where
  frame : t = { s with axes := t.axes, rpq := t.rpq }
  axis : ∀ a : Axis, (s.axis a).Moved (t.axis a)

namespace State.AxisMotion

theorem refl (s : State) : s.AxisMotion s := ⟨rfl, fun _ => .refl _⟩

theorem trans {s t u : State} (h : s.AxisMotion t) (k : t.AxisMotion u) : s.AxisMotion u := by
  refine ⟨?_, fun a => (h.axis a).trans (k.axis a)⟩
  have hk := k.frame
  rw [h.frame] at hk
  exact hk

theorem setAxis (s : State) {a : Axis} {u : AxisUnit} (h : (s.axis a).Moved u) : s.AxisMotion (s.setAxis a u) := by
  refine ⟨rfl, fun b => ?_⟩
  rw [State.setAxis_axis]
  split
  · rename_i hb
    rw [hb]
    exact h
  · exact .refl _

theorem reportIf {s t : State} (h : s.AxisMotion t) (c : Bool) (r : Report) : s.AxisMotion (t.reportIf c r) :=
  h.trans (by
    rw [State.reportIf_eq]
    exact ⟨rfl, fun _ => .refl _⟩)

end State.AxisMotion

theorem AxisUnit.keepReference_config (u : AxisUnit) : u.keepReference.config = u.config := by
  unfold AxisUnit.keepReference
  split <;> rfl

theorem AxisUnit.keepReference_pos (u : AxisUnit) : u.keepReference.pos = u.pos := by
  unfold AxisUnit.keepReference
  split <;> rfl

theorem AxisUnit.moved_sample (u : AxisUnit) (la lb lz : Level) : u.Moved (u.sample la lb lz).keepReference :=
  .of_same (AxisUnit.keepReference_config _) (AxisUnit.keepReference_pos _)

/-- An index event presets to a value in range, and changes the record in its index mode alone (R18). -/
theorem AxisUnit.moved_takeIndex (u : AxisUnit) (t : Tick) : u.Moved (u.takeIndex t) := by
  unfold AxisUnit.takeIndex
  dsimp only
  split
  · exact .refl u
  · exact .of_same rfl rfl
  · rename_i hmode
    refine ⟨rfl, rfl, fun h => ?_⟩
    obtain ⟨-, hm, hi⟩ := h
    exact ⟨hi (by rw [hmode]; rfl), hm, nofun⟩
  · rename_i hmode
    refine .of_pos rfl fun h => ?_
    obtain ⟨-, -, hi⟩ := h
    exact hi (by rw [hmode]; rfl)

theorem State.countAxis_motion (s : State) (a : Axis) (d : Direction) : s.AxisMotion (s.countAxis a d) := by
  unfold State.countAxis
  dsimp only
  split
  · rename_i hq
    exact .setAxis s (.of_pos rfl fun h => AxisConfig.countTo_inRange h.1 hq)
  · refine State.AxisMotion.reportIf (.setAxis s ?_) _ _
    exact .of_same rfl rfl

theorem State.deliverCount_motion (depth : Nat) (a : Axis) (d : Direction) (s : State) :
    s.AxisMotion (State.deliverCount depth a d s) := by
  induction depth generalizing a d s with
  | zero => exact .refl s
  | succ depth ih =>
    have each : ∀ (w : Direction) (l : List Axis) (t : State),
        t.AxisMotion (l.foldl (fun st b => State.deliverCount depth b w st) t) := by
      intro w l
      induction l with
      | nil => exact .refl
      | cons b rest ihl => exact fun t => (ih b w t).trans (ihl _)
    unfold State.deliverCount
    split
    · exact s.countAxis_motion a d
    · exact (s.countAxis_motion a d).trans (each _ _ _)

theorem State.count_motion (s : State) (a : Axis) (d : Direction) : s.AxisMotion (s.count a d) := s.deliverCount_motion _ a d

theorem State.takeDecoded_motion (s : State) (a : Axis) (x : Decoded) : s.AxisMotion (s.takeDecoded a x) := by
  cases x with
  | nothing => exact .refl s
  | count d => exact s.count_motion a d
  | phaseError =>
    refine State.AxisMotion.reportIf (.setAxis s ?_) _ _
    exact .of_same rfl rfl

theorem State.indexEdge_motion (s : State) (a : Axis) : s.AxisMotion (s.indexEdge a) := by
  unfold State.indexEdge
  dsimp only
  split
  · exact (State.AxisMotion.setAxis s (AxisUnit.moved_takeIndex _ _)).reportIf _ _
  · exact .refl s

theorem State.filteredSample_motion (s : State) (a : Axis) (la lb lz : Level) : s.AxisMotion (s.filteredSample a la lb lz) := by
  unfold State.filteredSample
  dsimp only
  split
  · have counted := (State.AxisMotion.setAxis s ((s.axis a).moved_sample la lb lz)).trans (State.takeDecoded_motion _ a
      ((s.axis a).decode ((s.axis a).sample la lb lz)))
    split
    · exact counted.trans (State.indexEdge_motion _ a)
    · exact counted
  · exact .refl s

theorem State.pinSample_motion (s : State) (a : Axis) (la lb lz : Level) : s.AxisMotion (s.pinSample a la lb lz) := by
  unfold State.pinSample
  dsimp only
  split
  · exact .refl s
  · exact .setAxis s (.of_same rfl rfl)

theorem State.timeCount_motion (s : State) (a : Axis) : s.AxisMotion (s.timeCount a) := by
  unfold State.timeCount
  dsimp only
  split
  · refine .trans (.setAxis s ?_) (State.count_motion _ a .up)
    exact .of_same rfl rfl
  · exact .refl s

/-! ### Strobe events -/

/-- Strobes moved, captures offered, group arms requested and reports taken, and nothing else changed. -/
def State.StrobeMotion (s t : State) : Prop :=
  t = { s with strobes := t.strobes, cpq := t.cpq, rpq := t.rpq, mks := { s.mks with groupArms := t.mks.groupArms } }

theorem State.StrobeMotion.trans {s t u : State} (h : s.StrobeMotion t) (k : t.StrobeMotion u) : s.StrobeMotion u := by
  unfold State.StrobeMotion at h k ⊢
  rw [h] at k
  exact k

theorem State.setStrobe_motion (s : State) (n : StrobeNo) (b : Strobe) : s.StrobeMotion (s.setStrobe n b) := rfl

theorem State.strobeEvent_motion (s : State) (n : StrobeNo) (edge : Edge) (t : Tick) (positions : List Int) :
    s.StrobeMotion (s.strobeEvent n edge t positions) := by
  obtain ⟨c, q, h⟩ := s.strobeEvent_frame n edge t positions
  rw [h]
  rfl

theorem State.startQualification_motion (s : State) (n : StrobeNo) (edge : Edge) : s.StrobeMotion (s.startQualification n edge) := by
  unfold State.startQualification
  dsimp only
  split
  · exact s.strobeEvent_motion n _ _ _
  · exact s.setStrobe_motion n _

theorem State.strobeEdge_motion (s : State) (n : StrobeNo) : s.StrobeMotion (s.strobeEdge n) := by
  unfold State.strobeEdge
  dsimp only
  split
  · refine State.StrobeMotion.trans (s.setStrobe_motion n _) (State.startQualification_motion _ n _)
  · exact s.setStrobe_motion n _

theorem State.qualified_motion (s : State) (n : StrobeNo) : s.StrobeMotion (s.qualified n) := by
  unfold State.qualified
  dsimp only
  split
  · split
    · exact (s.setStrobe_motion n _).trans (State.strobeEvent_motion _ n _ _ _)
    · rfl
  · rfl

end Sys2Proof.Machine
end

section
/-! The axes in their ranges, the mark table lawful and the arrival in progress lawful are one invariant, kept by every stage of an arrival and by
every step (O56). -/

namespace Sys2Proof.Machine

/-! ### The law of an arrival record -/

/-- The marks whose turn is in progress or has not begun (R53). -/
def ArrivalRecord.left (r : ArrivalRecord) : List MarkId := r.firing.toList ++ r.fireList

/-- The law of the record `r` of the arrival being taken, in the run state `st`, with the context `c` and the table `marks`. -/
structure TurnLaw (st : RunState) (c : Option ActionContext) (marks : List Mark) (r : ArrivalRecord) : Prop where
  step : r.arrival.isStep = true
  run : r.run = st
  hold : r.run = .hold → r.fireList = [] ∧ r.firing = none
  list : ∀ x ∈ c, r.firing = some x.mark ∧ x.index < x.list.length ∧ x.list.length ≤ 4
  sorted : r.left.Pairwise (· < ·)
  selected : ∀ id ∈ r.left, id ∉ r.disarmed → (findMark marks id).any (r.arrival.selects r.axis) = true

/-- The axes, the mark table and the arrival in progress, lawful together. -/
structure State.Lawful (s : State) : Prop where
  axes : s.axesLawful
  ids : SortedIds s.mks.marks
  records : ∀ m ∈ s.mks.marks, m.lawful (s.axis m.axis).config
  idle : s.mks.arrival = none → s.acu = none
  turn : ∀ r ∈ s.mks.arrival, TurnLaw s.rnc.state s.acu s.mks.marks r

theorem State.lawful_iff {s : State} : s.Lawful ↔ s.axesLawful ∧ s.marksLawful ∧ s.arrivalLawful :=
  ⟨fun ⟨ha, hi, hm, hn, ht⟩ => ⟨ha, ⟨hi, hm⟩, hn, fun r hr => by
      obtain ⟨h1, h2, h3, h4, h5, h6⟩ := ht r hr
      exact ⟨h1, h2, h3, h4, h5, h6⟩⟩,
    fun ⟨ha, ⟨hi, hm⟩, hn, ht⟩ => ⟨ha, hi, hm, hn, fun r hr => by
      obtain ⟨h1, h2, h3, h4, h5, h6⟩ := ht r hr
      exact ⟨h1, h2, h3, h4, h5, h6⟩⟩⟩

/-- The conditions of R52: a step arrival of the mark's axis at its target, the mark ARMED. -/
theorem Arrival.selects_iff (x : Arrival) (a : Axis) (m : Mark) :
    x.selects a m = true ↔ ∃ p d t, x = .step p d t ∧ m.axis = a ∧ m.state = .armed ∧ m.target = p ∧ m.qual.accepts d = true := by
  cases x with
  | jump p t => exact ⟨nofun, nofun⟩
  | step p d t =>
    simp only [Arrival.selects, Bool.and_eq_true, decide_eq_true_eq]
    constructor
    · rintro ⟨⟨ha, hs, hp⟩, hq⟩
      exact ⟨p, d, t, rfl, ha, hs, hp, hq⟩
    · rintro ⟨p', d', t', he, ha, hs, hp, hq⟩
      injection he with hp' hd' ht'
      subst hp' hd' ht'
      exact ⟨⟨ha, hs, hp⟩, hq⟩

/-- A mark still to fire that has not been disarmed stands in the table, selected. -/
theorem TurnLaw.mark_of_left {st : RunState} {c : Option ActionContext} {marks : List Mark} {r : ArrivalRecord}
    (h : TurnLaw st c marks r) {id : MarkId} (hid : id ∈ r.left) (hd : id ∉ r.disarmed) :
    ∃ m, findMark marks id = some m ∧ r.arrival.selects r.axis m = true :=
  Option.any_eq_true_iff_get _ _ |>.mp (h.selected id hid hd) |> fun ⟨hs, hp⟩ => ⟨_, (Option.some_get hs).symm, hp⟩

theorem State.setFiring_setFireList (s : State) (ids : List MarkId) (id : Option MarkId) :
    (s.setFireList ids).setFiring id =
      s.setMks { s.mks with arrival := s.mks.arrival.map fun r => { r with fireList := ids, firing := id } } := by
  unfold State.setFiring State.setFireList
  rw [show (s.setMks { s.mks with arrival := s.mks.arrival.map fun r => { r with fireList := ids } }).mks.arrival =
    s.mks.arrival.map fun r => { r with fireList := ids } from rfl, Option.map_map]
  rfl

/-! ### What keeps the law -/

namespace State.Lawful

/-- Axes moved within their ranges keep the law of the records. -/
theorem of_moved {s t : State} (h : s.Lawful) (ha : ∀ a, (s.axis a).Moved (t.axis a)) (hk : t.mks.marks = s.mks.marks)
    (hr : t.mks.arrival = s.mks.arrival) (hc : t.acu = s.acu) (hst : t.rnc.state = s.rnc.state) : t.Lawful where
  axes a := (ha a).lawful (h.axes a)
  ids := hk ▸ h.ids
  records m hm := Mark.lawful_congr (ha m.axis).kind (ha m.axis).modulus (h.records m (hk ▸ hm))
  idle hn := by rw [hc]; exact h.idle (hr ▸ hn)
  turn r hm := by rw [hc, hk, hst]; exact h.turn r (hr ▸ hm)

theorem motion {s t : State} (h : s.Lawful) (ht : s.AxisMotion t) : t.Lawful := by
  have hf := ht.frame
  refine h.of_moved ht.axis ?_ ?_ ?_ ?_ <;> rw [hf]

theorem setAxis {s : State} (h : s.Lawful) {a : Axis} {u : AxisUnit} (hu : (s.axis a).Moved u) : (s.setAxis a u).Lawful :=
  h.motion (.setAxis s hu)

theorem strobe {s t : State} (h : s.Lawful) (ht : s.StrobeMotion t) : t.Lawful := by
  rw [ht]
  exact { h with }

/-- A lawful record written, which still meets the conditions it was selected by if it is one of those still to fire. -/
theorem putMark {s : State} (h : s.Lawful) {y : Mark} (hy : y.lawful (s.axis y.axis).config)
    (hsel : ∀ r ∈ s.mks.arrival, y.id ∈ r.left → y.id ∉ r.disarmed → r.arrival.selects r.axis y = true) : (s.putMark y).Lawful where
  axes := h.axes
  ids := h.ids.putRecord y
  records m hm := by
    rcases mem_putRecord hm with rfl | hm
    · exact hy
    · exact h.records m hm
  idle := h.idle
  turn r hr := { h.turn r hr with
    selected := fun id hid hd => by
      have hf : findMark (s.putMark y).mks.marks id = if y.id = id then some y else findMark s.mks.marks id :=
        findMark_putRecord h.ids y id
      rw [hf]
      split
      · rename_i he
        subst he
        exact hsel r hr hid hd
      · exact (h.turn r hr).selected id hid hd }

/-- The arrival record changed. -/
theorem mapArrival {s : State} (h : s.Lawful) (f : ArrivalRecord → ArrivalRecord)
    (hf : ∀ r ∈ s.mks.arrival, TurnLaw s.rnc.state s.acu s.mks.marks r → TurnLaw s.rnc.state s.acu s.mks.marks (f r)) :
    (s.setMks { s.mks with arrival := s.mks.arrival.map f }).Lawful where
  axes := h.axes
  ids := h.ids
  records := h.records
  idle hn := h.idle (Option.map_eq_none_iff.mp hn)
  turn r hr := by
    obtain ⟨x, hx, rfl⟩ := Option.map_eq_some_iff.mp hr
    exact hf x hx (h.turn x hx)

/-- With no arrival in progress there is no law of one. -/
theorem of_absent {s t : State} (h : s.Lawful) (hn : s.mks.arrival = none) (ha : t.axesLawful) (hi : SortedIds t.mks.marks)
    (hm : ∀ m ∈ t.mks.marks, m.lawful (t.axis m.axis).config) (hr : t.mks.arrival = s.mks.arrival) (hc : t.acu = s.acu) : t.Lawful where
  axes := ha
  ids := hi
  records := hm
  idle _ := by rw [hc]; exact h.idle hn
  turn r hm := by
    rw [hr, hn] at hm
    cases hm

/-- A record written while no arrival is in progress. -/
theorem putMark_absent {s : State} (h : s.Lawful) (hn : s.mks.arrival = none) {y : Mark} (hy : y.lawful (s.axis y.axis).config) :
    (s.putMark y).Lawful :=
  h.putMark hy fun r hr => by
    rw [hn] at hr
    cases hr

end State.Lawful

/-! ### Arming and disarming -/

@[simp] theorem Mark.arm_axis (m : Mark) (c : AxisConfig) (p : Int) : (m.arm c p).axis = m.axis := by
  unfold Mark.arm
  cases m.kind <;> rfl

@[simp] theorem Mark.fired_axis (m : Mark) (c : AxisConfig) : (m.fired c).axis = m.axis := by
  unfold Mark.fired
  split
  · rfl
  · rfl
  · dsimp only
    split <;> rfl

@[simp] theorem Mark.fired_id (m : Mark) (c : AxisConfig) : (m.fired c).id = m.id := by
  unfold Mark.fired
  split
  · rfl
  · rfl
  · dsimp only
    split <;> rfl

@[simp] theorem Mark.bandCheck_id (m : Mark) (c : AxisConfig) (p : Int) : (m.bandCheck c p).id = m.id := by
  rcases m.bandCheck_cases c p with h | ⟨h, -⟩ <;> rw [h]

@[simp] theorem Mark.bandCheck_axis (m : Mark) (c : AxisConfig) (p : Int) : (m.bandCheck c p).axis = m.axis := by
  rcases m.bandCheck_cases c p with h | ⟨h, -⟩ <;> rw [h]

theorem Mark.move_axis {m n : Mark} {u : AxisUnit} {relative : Bool} {v : Int} (h : m.move u relative v = some n) : n.axis = m.axis := by
  simp only [Mark.move, Option.map_eq_some_iff] at h
  obtain ⟨target, -, rfl⟩ := h
  rw [Mark.bandCheck_axis]
  unfold Mark.retarget
  cases m.kind <;> rfl

theorem Mark.catchUp_axis {m n : Mark} {c : AxisConfig} {p : Int} {k : Nat} (h : m.catchUp c p = some (n, k)) : n.axis = m.axis := by
  unfold Mark.catchUp at h
  split at h
  · split at h
    · dsimp only at h
      split at h
      · split at h
        · cases h; rfl
        · split at h <;> cases h <;> rfl
      · split at h <;> cases h <;> rfl
    · cases h
  · cases h
  · cases h

theorem Mark.active_of_armed {m : Mark} (h : m.state = .armed) : m.active = true := by simp [Mark.active, h]

/-! ### New axis records -/

theorem State.settable_iff {s : State} {a : Axis} {v : Int} :
    s.settable a v = true ↔ (s.axis a).config.mode ≠ .off ∧ (s.axis a).config.inRange v = true := by
  simp [State.settable]

/-- The modulus of a new record, which applies to a ROTARY axis (R4 check 2). -/
def AxisFields.modulusField (f : AxisFields) : AxisKind → Option Nat
  | .linear => some AxisConfig.reset.modulus
  | .rotary => if 2 ≤ f.modulus ∧ f.modulus ≤ Config.modulusMax then some f.modulus else none

/-- A new record of kind `kind` and modulus `modulus`, every other field at its reset value. -/
def AxisFields.rangeRecord (f : AxisFields) (kind : AxisKind) (modulus : Nat) : AxisConfig :=
  { AxisConfig.reset with kind := kind, modulus := modulus, initial := f.initial }

/-- The filter of a new record (R4 check 4). -/
def AxisFields.filterField (f : AxisFields) : Option Nat := if f.filter ≤ 15 then some f.filter else none

/-- The divisor of a new record, which applies in TIMEBASE (Table 1-2). -/
def AxisFields.divisorField (f : AxisFields) (mode : AxisMode) (c : AxisConfig) : Option Nat :=
  if mode = .timebase then (if 1 ≤ f.divisor ∧ f.divisor ≤ 65535 then some f.divisor else none) else some c.divisor

/-- The source of a new record, which applies in REVS. -/
def AxisFields.sourceField (f : AxisFields) (mode : AxisMode) (c : AxisConfig) : Option Axis :=
  if mode = .revs then axisOf f.source else some c.source

/-- The index preset of a new record, which applies in the HOME modes. -/
def AxisFields.presetField (f : AxisFields) (indexMode : IndexMode) (c : AxisConfig) : Option Int :=
  if indexMode.presets then (if c.inRange f.indexPreset then some f.indexPreset else none) else some c.indexPreset

theorem ite_bind {α β : Type} (p : Prop) [Decidable p] (x y : Option α) (k : α → Option β) :
    (if p then x.bind k else y.bind k) = (if p then x else y).bind k := by
  split <;> rfl

/-- The range checks of R4, one after another. -/
theorem AxisFields.range_eq (f : AxisFields) :
    f.range = (AxisKind.ofByte f.kind).bind fun kind => (f.modulusField kind).bind fun modulus =>
      if (f.rangeRecord kind modulus).inRange f.initial then some (f.rangeRecord kind modulus) else none := by
  unfold AxisFields.range
  refine congrArg _ (funext fun kind => ?_)
  cases kind with
  | linear => rfl
  | rotary => exact ite_bind _ _ _ _

/-- The checks of R4, one after another. -/
theorem AxisFields.config_eq (f : AxisFields) :
    f.config = (AxisMode.ofByte f.mode).bind fun mode => f.range.bind fun c =>
      if mode = .off then some { c with mode := mode }
      else (flagOf f.invert).bind fun invert => f.filterField.bind fun filter => (f.divisorField mode c).bind fun divisor =>
        (f.sourceField mode c).bind fun source => (IndexMode.ofByte f.indexMode).bind fun indexMode =>
        (Qualifier.ofByte f.indexQual).bind fun indexQual => (f.presetField indexMode c).bind fun indexPreset =>
        some { c with mode, invert, filter, divisor, source, indexMode, indexQual, indexPreset } := by
  unfold AxisFields.config
  refine congrArg _ (funext fun mode => congrArg _ (funext fun c => ?_))
  by_cases hoff : mode = .off
  · rw [if_pos hoff, if_pos hoff]
    rfl
  · rw [if_neg hoff, if_neg hoff]
    refine congrArg _ (funext fun invert => ?_)
    refine (ite_bind _ _ _ _).trans (congrArg _ (funext fun filter => ?_))
    refine (ite_bind _ _ _ _).trans (congrArg _ (funext fun divisor => ?_))
    refine (ite_bind _ _ _ _).trans (congrArg _ (funext fun source => ?_))
    refine congrArg _ (funext fun indexMode => congrArg _ (funext fun indexQual => ?_))
    exact ite_bind _ _ _ _
/-- What the range checks of R4 leave: a kind, a modulus and an initial position in its range, and every other field at reset. -/
theorem AxisFields.range_eq_some {f : AxisFields} {c : AxisConfig} :
    f.range = some c ↔ ∃ kind modulus, AxisKind.ofByte f.kind = some kind ∧ f.modulusField kind = some modulus ∧
      (f.rangeRecord kind modulus).inRange f.initial = true ∧ c = f.rangeRecord kind modulus := by
  simp only [AxisFields.range_eq, Option.bind_eq_some_iff, Option.ite_none_right_eq_some, Option.some.injEq]
  constructor
  · rintro ⟨kind, hk, modulus, hm, hr, rfl⟩
    exact ⟨kind, modulus, hk, hm, hr, rfl⟩
  · rintro ⟨kind, modulus, hk, hm, hr, rfl⟩
    exact ⟨kind, hk, modulus, hm, hr, rfl⟩

theorem AxisFields.modulusField_rotary {f : AxisFields} {modulus : Nat} (h : f.modulusField .rotary = some modulus) : 2 ≤ modulus := by
  unfold AxisFields.modulusField at h
  dsimp only at h
  split at h
  · rename_i hbounds
    cases h
    exact hbounds.1
  · cases h

/-- A new record's initial position and index preset lie in its range (R4 checks 2 to 4). -/
theorem AxisFields.lawful_config {f : AxisFields} {c : AxisConfig} (h : f.config = some c) {u : AxisUnit} {t : Tick} :
    (u.configure c t).lawful := by
  change c.inRange c.initial = true ∧ (c.kind = .rotary → 2 ≤ c.modulus) ∧
    (c.indexMode.presets = true → c.inRange c.indexPreset = true)
  rw [AxisFields.config_eq] at h
  obtain ⟨mode, -, h⟩ := Option.bind_eq_some_iff.mp h
  obtain ⟨r, hr, h⟩ := Option.bind_eq_some_iff.mp h
  obtain ⟨kind, modulus, -, hm, hinitial, rfl⟩ := AxisFields.range_eq_some.mp hr
  have hmodulus : kind = .rotary → 2 ≤ modulus := fun hk => AxisFields.modulusField_rotary (hk ▸ hm)
  split at h
  · cases h
    exact ⟨hinitial, hmodulus, nofun⟩
  · simp only [Option.bind_eq_some_iff, Option.some.injEq] at h
    obtain ⟨invert, -, filter, -, divisor, -, source, -, indexMode, -, indexQual, -, indexPreset, hpreset, rfl⟩ := h
    refine ⟨hinitial, hmodulus, fun hp => ?_⟩
    have hp : indexMode.presets = true := hp
    unfold AxisFields.presetField at hpreset
    rw [if_pos hp] at hpreset
    split at hpreset
    · rename_i hrange
      cases hpreset
      exact hrange
    · cases hpreset

namespace State.Lawful

theorem record {s : State} (h : s.Lawful) {id : MarkId} {m : Mark} (hm : s.mark id = some m) : m.lawful (s.axis m.axis).config :=
  h.records m (findMark_mem hm)

/-- Arming reaches no mark still to fire: those are ARMED, unless disarmed since (R33, R53). -/
theorem armMark {s : State} (h : s.Lawful) (id : MarkId) : (s.armMark id).1.Lawful := by
  unfold State.armMark
  split
  · exact h
  · rename_i m hm
    dsimp only
    split
    · exact h
    · rename_i hactive
      split
      · rename_i harmable
        refine h.putMark (by rw [Mark.arm_axis]; exact Mark.lawful_arm (h.record hm) harmable) fun r hr hid hd => ?_
        rw [Mark.arm_id, findMark_id hm] at hid hd
        obtain ⟨x, hx, hsel⟩ := (h.turn r hr).mark_of_left hid hd
        obtain rfl : m = x := Option.some.inj (hm.symm.trans hx)
        obtain ⟨-, -, -, -, -, harmed, -⟩ := (Arrival.selects_iff _ _ _).mp hsel
        exact absurd (Mark.active_of_armed harmed) hactive
      · exact h

/-- A mark disarmed is noted by the arrival in progress, so it need not be selected any more (R53). -/
theorem disarmMark {s : State} (h : s.Lawful) (id : MarkId) : (s.disarmMark id).1.Lawful := by
  unfold State.disarmMark
  split
  · exact h
  · rename_i m hm
    have noted : (s.setMks (s.mks.noteDisarmed id)).Lawful :=
      h.mapArrival (fun r => { r with disarmed := id :: r.disarmed }) fun r _ hr =>
        { hr with selected := fun x hx hd => hr.selected x hx fun hm => hd (List.mem_cons_of_mem _ hm) }
    refine noted.putMark (y := m.disarmed) (Mark.lawful_disarmed (h.record hm)) fun r hr _ hd => ?_
    obtain ⟨x, -, rfl⟩ := Option.map_eq_some_iff.mp hr
    exact absurd (by rw [Mark.disarmed_id, findMark_id hm]; exact List.mem_cons_self) hd

theorem armEach (ids : List MarkId) {s : State} (h : s.Lawful) : (s.armEach ids).1.Lawful := by
  induction ids generalizing s with
  | nil => exact h
  | cons id rest ih => exact ih (h.armMark id)

theorem disarmEach (ids : List MarkId) {s : State} (h : s.Lawful) : (s.disarmEach ids).1.Lawful := by
  induction ids generalizing s with
  | nil => exact h
  | cons id rest ih => exact ih (h.disarmMark id)

/-! ### A stage of an arrival -/

theorem lineAction {s : State} (h : s.Lawful) (c : ActionContext) (n : LineNo) (r : LineRequest) : (s.lineAction c n r).Lawful := by
  unfold State.lineAction
  split <;> exact { h with }

theorem snapshotAction {s : State} (h : s.Lawful) (c : ActionContext) (mask : BitVec 8) : (s.snapshotAction c mask).Lawful := by
  unfold State.snapshotAction
  split
  · exact { h with }
  · dsimp only
    split
    · rw [State.storeCapture_eq]
      exact { h with }
    · rw [State.loseCapture_eq]
      exact { h with }

theorem presetAction {s : State} (h : s.Lawful) (c : ActionContext) (a : Axis) (v : Int) : (s.presetAction c a v).Lawful := by
  unfold State.presetAction
  dsimp only
  split
  · exact { h with }
  · split
    · rename_i hrange
      have preset : (s.setAxis a ((s.axis a).preset v s.tick)).Lawful := h.setAxis (.of_pos rfl fun _ => hrange)
      refine preset.mapArrival _ fun r _ hr => ?_
      split
      · exact { hr with }
      · exact hr
    · exact { h with }

theorem takeEntry {s : State} (h : s.Lawful) (c : ActionContext) (x : Action) : (s.takeEntry c x).Lawful := by
  cases x with
  | pulse n v w => exact h.lineAction c n _
  | set n v => exact h.lineAction c n _
  | toggle n => exact h.lineAction c n _
  | snapshot mask => exact h.snapshotAction c mask
  | preset a v => exact h.presetAction c a v
  | armGroup g => exact h.armEach _
  | disarmGroup g => exact h.disarmEach _

/-- The Action Unit stopped, or moved on in its list. -/
theorem setAcu {s : State} (h : s.Lawful) (c : Option ActionContext) (hn : s.mks.arrival = none → c = none)
    (hc : ∀ r ∈ s.mks.arrival, ∀ x ∈ c, r.firing = some x.mark ∧ x.index < x.list.length ∧ x.list.length ≤ 4) : (s.setAcu c).Lawful where
  axes := h.axes
  ids := h.ids
  records := h.records
  idle := hn
  turn r hr := { h.turn r hr with list := hc r hr }

theorem nextEntry {s : State} (h : s.Lawful) {c : ActionContext} (hc : s.acu = some c) : (s.nextEntry c).Lawful := by
  unfold State.nextEntry
  split
  · exact h.setAcu none (fun _ => rfl) nofun
  · rename_i x rest hlist
    have taken := h.takeEntry c x
    have hacu : (s.takeEntry c x).acu = some c := (s.takeEntry_withinTurn c x).2.2.trans hc
    cases rest with
    | nil => exact taken.setAcu none (fun _ => rfl) nofun
    | cons y more =>
      have hlen : c.index + 1 < c.list.length := by
        have := congrArg List.length hlist
        simp only [List.length_drop, List.length_cons] at this
        omega
      refine taken.setAcu _ (fun hn => absurd (taken.idle hn) (by rw [hacu]; nofun)) fun r hr z hz => ?_
      obtain ⟨hfiring, -, hmax⟩ := (taken.turn r hr).list c hacu
      cases hz
      exact ⟨hfiring, hlen, hmax⟩

/-- Its list finished, the mark that was firing is no longer one of those still to fire (R56 to R58). -/
theorem firingEnded {s : State} (h : s.Lawful) (hc : s.acu = none) : (s.setFiring none).Lawful :=
  h.mapArrival (fun r => { r with firing := none }) fun r _ hr =>
    { hr with
      hold := fun hh => ⟨(hr.hold hh).1, rfl⟩
      list := by rw [hc]; nofun
      sorted := hr.sorted.sublist (List.sublist_append_right _ _)
      selected := fun id hid => hr.selected id (List.mem_append_right _ hid) }

theorem endFiring {s : State} (h : s.Lawful) (hc : s.acu = none) {r : ArrivalRecord} (hr : s.mks.arrival = some r) {id : MarkId}
    (hf : r.firing = some id) (p : Int) (d : Direction) (t : Tick) : (s.endFiring id p d t).Lawful := by
  have hturn := h.turn r hr
  have hleft : id ∈ r.left := List.mem_append_left _ (by rw [hf]; exact List.mem_singleton_self _)
  unfold State.endFiring
  split
  · rename_i m hm
    generalize hq : s.reportIf m.report (m.firedReport p d t) = q
    rw [State.reportIf_eq] at hq
    have hq' : q.Lawful := by
      rw [← hq]
      exact { h with }
    have hqm : q.mark id = some m := by
      rw [← hq]
      exact hm
    have hqr : q.mks.arrival = some r := by
      rw [← hq]
      exact hr
    have ended : (q.setFiring none).Lawful := hq'.firingEnded (by rw [← hq]; exact hc)
    unfold State.transition
    rw [hqm]
    dsimp only
    split
    · exact ended
    · rename_i hd
      have hd : id ∉ r.disarmed := by simpa [State.disarmedSince, hqr] using hd
      obtain ⟨x, hx, hsel⟩ := hturn.mark_of_left hleft hd
      obtain rfl : m = x := Option.some.inj (hm.symm.trans hx)
      obtain ⟨-, -, -, -, -, harmed, -⟩ := (Arrival.selects_iff _ _ _).mp hsel
      have hlaw : (m.fired (q.axis m.axis).config).lawful (q.axis m.axis).config :=
        Mark.lawful_fired (hq'.record hqm) (hq'.axes m.axis).2.1 harmed
      refine ended.putMark (y := m.fired (q.axis m.axis).config) (by rw [Mark.fired_axis]; exact hlaw) fun r' hr' hid _ => ?_
      rw [Mark.fired_id, findMark_id hm] at hid
      obtain ⟨r0, hr0, rfl⟩ := Option.map_eq_some_iff.mp hr'
      obtain rfl : r = r0 := Option.some.inj (hqr.symm.trans hr0)
      have hsorted := hturn.sorted
      rw [ArrivalRecord.left, hf, Option.toList_some, List.singleton_append, List.pairwise_cons] at hsorted
      exact absurd (hsorted.1 id hid) (lt_irrefl _)
  · exact h.firingEnded hc

/-- A turn begins: the mark goes from the marks whose turn has not begun to the mark now firing, or is passed over (R53). -/
theorem beginTurn {s : State} (h : s.Lawful) (hc : s.acu = none) {r : ArrivalRecord} (hr : s.mks.arrival = some r) (hf : r.firing = none)
    {id : MarkId} {rest : List MarkId} (hl : r.fireList = id :: rest) (t : Tick) : ((s.setFireList rest).beginTurn id t).Lawful := by
  have hturn := h.turn r hr
  have hrun : r.run ≠ .hold := fun hh => by
    have := (hturn.hold hh).1
    rw [hl] at this
    cases this
  have passed : (s.setFireList rest).Lawful := h.mapArrival (fun r => { r with fireList := rest }) fun r' hr' hlaw => by
    obtain rfl : r = r' := Option.some.inj (hr.symm.trans hr')
    have hsub : rest.Sublist r.fireList := by rw [hl]; exact List.sublist_cons_self _ _
    have hleft : ({ r with fireList := rest } : ArrivalRecord).left.Sublist r.left := List.Sublist.append_left hsub _
    exact
      { hlaw with
        hold := fun hh => absurd hh hrun
        sorted := hlaw.sorted.sublist hleft
        selected := fun x hx => hlaw.selected x (hleft.subset hx) }
  unfold State.beginTurn
  split
  · rename_i m hm
    have hm : s.mark id = some m := hm
    split
    · have counted : (s.putMark (m.counted t)).Lawful := h.putMark (y := m.counted t) (Mark.lawful_counted (h.record hm)) fun r' hr' hid hd => by
        obtain rfl : r = r' := Option.some.inj (hr.symm.trans hr')
        have hid : m.id ∈ r.left := hid
        have hd : m.id ∉ r.disarmed := hd
        rw [findMark_id hm] at hid hd
        obtain ⟨x, hx, hsel⟩ := hturn.mark_of_left hid hd
        obtain rfl : m = x := Option.some.inj (hm.symm.trans hx)
        exact hsel
      have moved : (((s.putMark (m.counted t)).setFireList rest).setFiring (some m.id)).Lawful := by
        rw [State.setFiring_setFireList]
        refine counted.mapArrival _ fun r' hr' hlaw => ?_
        obtain rfl : r = r' := Option.some.inj (hr.symm.trans hr')
        have hleft : ({ r with fireList := rest, firing := some m.id } : ArrivalRecord).left = r.left := by
          rw [ArrivalRecord.left, ArrivalRecord.left, hf, hl, findMark_id hm]
          rfl
        exact
          { hlaw with
            hold := fun hh => absurd hh hrun
            list := fun x hx => by
              have hx : s.acu = some x := hx
              rw [hc] at hx
              cases hx
            sorted := by rw [hleft]; exact hlaw.sorted
            selected := by rw [hleft]; exact hlaw.selected }
      unfold State.beginFiring
      refine moved.setAcu _ (fun hn => ?_) fun r' hr' x hx => ?_
      · exact absurd (Option.map_eq_none_iff.mp (Option.map_eq_none_iff.mp hn)) (by rw [show (s.putMark _).mks.arrival = some r from hr]; nofun)
      · obtain ⟨r0, -, rfl⟩ := Option.map_eq_some_iff.mp hr'
        cases hacts : m.actions with
        | nil =>
          rw [hacts] at hx
          cases hx
        | cons a more =>
          rw [hacts] at hx
          cases hx
          have hfour := (h.record hm).2.2
          rw [hacts] at hfour
          exact ⟨rfl, Nat.succ_pos _, hfour⟩
    · exact passed
  · exact passed

/-- The end of an arrival. -/
theorem ended {s : State} (h : s.Lawful) (hc : s.acu = none) : (s.setArrival none).Lawful where
  axes := h.axes
  ids := h.ids
  records := h.records
  idle _ := hc
  turn := nofun

/-- Every stage of an arrival keeps the law (R53 to R58, R70, R71). -/
theorem stage (s : State) (h : s.Lawful) : s.stage.Lawful := by
  unfold State.stage
  split
  · exact h
  · rename_i r hr
    split
    · rename_i hx
      have := (h.turn r hr).step
      rw [hx] at this
      cases this
    · split
      · rename_i hc
        exact h.nextEntry hc
      · rename_i hc hf
        exact h.endFiring hc hr hf _ _ _
      · rename_i hc hf hl
        exact h.beginTurn hc hr hf hl _
      · rename_i hc _ _
        exact h.ended hc

theorem settled {s : State} (h : s.Lawful) : s.settled.Lawful := State.settled_keeps stage h

/-! ### Arrivals begun -/

theorem ids_bandPhase {s : State} (h : s.Lawful) (a : Axis) (p : Int) : SortedIds (s.bandPhase a p).mks.marks := by
  have hids : (s.bandPhase a p).mks.marks.map (·.id) = s.mks.marks.map (·.id) := by
    change (s.mks.marks.map _).map _ = _
    rw [List.map_map]
    refine List.map_congr_left fun m _ => ?_
    dsimp only [Function.comp_apply]
    split
    · exact m.bandCheck_id _ _
    · rfl
  rw [SortedIds, hids]
  exact h.ids

theorem records_bandPhase {s : State} (h : s.Lawful) (a : Axis) (p : Int) :
    ∀ m ∈ (s.bandPhase a p).mks.marks, m.lawful (s.axis m.axis).config := by
  intro m hm
  obtain ⟨x, hx, rfl⟩ := List.mem_map.mp hm
  split
  · rename_i ha
    rw [Mark.bandCheck_axis, ← ha]
    exact Mark.lawful_bandCheck (h.records x hx)
  · exact h.records x hx

/-- An arrival begun: its record, lawful against the band-checked table (R51). -/
theorem begun {s : State} (h : s.Lawful) (hc : s.acu = none) (a : Axis) (p : Int) {r : ArrivalRecord}
    (hr : TurnLaw s.rnc.state none (s.bandPhase a p).mks.marks r) : ((s.setArrival (some r)).bandPhase a p).Lawful where
  axes := h.axes
  ids := h.ids_bandPhase a p
  records := h.records_bandPhase a p
  idle _ := hc
  turn x hx := by
    obtain rfl : r = x := Option.some.inj hx
    change TurnLaw s.rnc.state s.acu (s.bandPhase a p).mks.marks r
    rw [hc]
    exact hr

/-- The select phase lists marks that meet the conditions of R52, in ascending id order. -/
theorem turnLaw_selectPhase {s : State} (hi : SortedIds s.mks.marks) (a : Axis) (p : Int) (d : Direction) (t : Tick) :
    TurnLaw .run none s.mks.marks
      { axis := a, arrival := .step p d t, run := .run, fireList := s.selectPhase a p d, firing := none, disarmed := [], reads := p } where
  step := rfl
  run := rfl
  hold := nofun
  list := nofun
  sorted := hi.sublist (List.Sublist.map _ List.filter_sublist)
  selected id hid _ := by
    obtain ⟨m, hm, rfl⟩ := List.mem_map.mp hid
    obtain ⟨hmem, hsel⟩ := List.mem_filter.mp hm
    rw [(findMark_eq_some hi).mpr ⟨hmem, rfl⟩]
    exact hsel

theorem beginStepArrival {s : State} (h : s.Lawful) (hc : s.acu = none) (a : Axis) (p : Int) (d : Direction) (t : Tick) :
    (s.beginStepArrival a p d t).Lawful := by
  unfold State.beginStepArrival
  dsimp only
  split
  · rename_i hst
    refine h.begun hc a p ?_
    rw [hst]
    exact { step := rfl, run := rfl, hold := fun _ => ⟨rfl, rfl⟩, list := nofun, sorted := .nil, selected := nofun }
  · rename_i hst
    have law := turnLaw_selectPhase (h.ids_bandPhase a p) a p d t
    rw [← hst] at law
    exact h.begun hc a p law

theorem takeStepArrival {s : State} (h : s.Lawful) (hn : s.mks.arrival = none) (a : Axis) (x : Option Nat) :
    (s.takeStepArrival a x).Lawful := by
  unfold State.takeStepArrival
  split
  · rename_i p d t rest _
    refine State.goOn_keeps stage x (beginStepArrival (h.setAxis ?_) (h.idle hn) a p d t)
    exact .of_same rfl rfl
  · exact h

theorem stepArrival {s : State} (h : s.Lawful) (x : Option Nat) (a : Axis) : (s.stepArrival x a).Lawful := by
  unfold State.stepArrival
  split
  · split
    · exact State.goOn_keeps stage x h
    · exact h.settled.takeStepArrival s.settled_frame.2 a x
  · rename_i hn
    exact h.takeStepArrival hn a x

theorem settled_idle {s : State} (h : s.Lawful) : s.settled.acu = none := h.settled.idle s.settled_frame.2

theorem jumpArrival {s : State} (h : s.Lawful) (a : Axis) : (s.jumpArrival a).Lawful := by
  unfold State.jumpArrival
  dsimp only
  split
  · rename_i p t rest _
    have popped : (s.settled.setAxis a { s.settled.axis a with arrivals := rest }).Lawful := h.settled.setAxis (.of_same rfl rfl)
    exact
      { axes := popped.axes
        ids := popped.ids_bandPhase a p
        records := popped.records_bandPhase a p
        idle := fun _ => h.settled_idle
        turn := nofun }
  · exact h.settled

theorem armMembers {s : State} (h : s.Lawful) (g : GroupNo) : (s.armMembers g).1.Lawful := h.armEach _

theorem strobeGroupArm {s : State} (h : s.Lawful) : s.strobeGroupArm.Lawful := by
  have hs := h.settled
  unfold State.strobeGroupArm
  dsimp only
  split
  · exact hs
  · rename_i rest _
    have popped : (s.settled.setMks { s.settled.mks with groupArms := rest }).Lawful := { hs with }
    split
    · exact popped.armMembers _
    · exact popped

/-! ### Commands -/

/-- Every axis a lawful unit of the same kind and modulus. -/
theorem updateAxes {s : State} (h : s.Lawful) (mask : BitVec 8) (f : AxisUnit → AxisUnit) (hf : ∀ u : AxisUnit, u.Moved (f u)) :
    (s.updateAxes mask f).Lawful := by
  refine h.of_moved (fun a => ?_) rfl rfl rfl rfl
  rw [State.updateAxes_axis]
  split
  · exact hf _
  · exact .refl _

/-- CONFIG_AXIS finds no mark of the axis ARMED or REARMING (R22), so the new record binds none. -/
theorem configAxis {s : State} (h : s.Lawful) (hn : s.mks.arrival = none) {a : Axis} {u : AxisUnit} (hu : u.lawful)
    (hidle : s.axisBusy a = false) : (s.setAxis a u).Lawful := by
  refine h.of_absent (t := s.setAxis a u) hn (fun b => ?_) h.ids (fun m hm => ?_) rfl rfl
  · rw [State.setAxis_axis]
    split
    · exact hu
    · exact h.axes b
  · rw [State.setAxis_axis]
    split
    · rename_i ha
      have hbusy := List.any_eq_false.mp hidle m hm
      exact Mark.lawful_inactive (by simpa [ha] using hbusy) (h.records m hm)
    · exact h.records m hm

theorem catchUpEach (ids : List MarkId) {s : State} (h : s.Lawful) (hn : s.mks.arrival = none) : (s.catchUpEach ids).1.Lawful := by
  induction ids generalizing s with
  | nil => exact h
  | cons id rest ih =>
    unfold State.catchUpEach
    split
    · exact ih h hn
    · rename_i m k hk
      obtain ⟨x, hx, hc⟩ := Option.bind_eq_some_iff.mp hk
      have haxis : m.axis = x.axis := Mark.catchUp_axis hc
      have put : (s.putMark m).Lawful :=
        h.putMark_absent hn (by rw [haxis]; exact Mark.lawful_catchUp (h.record hx) hc)
      have reported : ((s.putMark m).report (m.skippedReport k s.tick)).Lawful := { put with }
      exact ih reported hn

/-- HOLD entered with no arrival in progress. -/
theorem enterHold {s : State} (h : s.Lawful) (hn : s.mks.arrival = none) (c : HoldCause) : (s.enterHold c).Lawful :=
  h.of_absent hn h.axes h.ids h.records rfl rfl

theorem enterRun {s : State} (h : s.Lawful) (hn : s.mks.arrival = none) : s.enterRun.1.Lawful :=
  catchUpEach _ (h.of_absent (t := (s.setRnc { s.rnc with state := .run }).report _) hn h.axes h.ids h.records rfl rfl) hn

/-- The effect of a command keeps the law; a command that can touch the mark table or the run state finds no arrival in progress (R49). -/
theorem command {s t : State} {i : Instr} (ht : CommandEffect s i t) (hn : takesWhole i = true → s.mks.arrival = none)
    (h : s.Lawful) : t.Lawful := by
  cases ht
  case run => exact h.enterRun (hn rfl)
  case hold => exact h.enterHold (hn rfl) _
  case configAxis a c f hc hidle =>
    exact h.configAxis (hn rfl) (AxisFields.lawful_config hc) hidle
  case presetAxis a v hv => exact h.setAxis (.of_pos rfl fun _ => (State.settable_iff.mp hv).2)
  case readAxes mask => exact h.updateAxes mask _ fun u => .of_same rfl rfl
  case clearAxisFault mask => exact h.updateAxes mask _ fun u => .of_same rfl rfl
  case homeAxis a v hv =>
    refine h.setAxis ⟨rfl, rfl, fun hu => ?_⟩
    obtain ⟨hpos, hmod, -⟩ := hu
    exact ⟨hpos, hmod, fun _ => (State.settable_iff.mp hv).2⟩
  case defineMark m f id config hlen hm hidle =>
    exact h.putMark_absent (hn rfl) (MarkFields.lawful_mark _ hlen hm).1
  case deleteMark id =>
    exact h.of_absent (hn rfl) h.axes (h.ids.eraseRecord id) (fun m hm => h.records m (List.mem_of_mem_filter hm)) rfl rfl
  case armMarks => exact State.eachMark_keeps (P := State.Lawful) (fun _ id hs => armMark hs id) _ h
  case disarmMarks => exact State.eachMark_keeps (P := State.Lawful) (fun _ id hs => disarmMark hs id) _ h
  case armGroup => exact h.armEach _
  case disarmGroup => exact h.disarmEach _
  case moveMark id m moved relative v hm hmove =>
    refine h.putMark_absent (hn rfl) ?_
    rw [Mark.move_axis hmove]
    exact Mark.lawful_move (h.record hm) (h.axes m.axis).2.1 hmove
  case captureNow => 
    rw [State.storeCapture_eq]
    exact { h with }
  all_goals exact { h with }

/-! ### Events -/

theorem loseSession {s : State} (h : s.Lawful) (c : HoldCause) : (s.loseSession c).Lawful := by
  rw [State.loseSession_eq]
  exact h.settled.of_absent s.settled_frame.2 h.settled.axes h.settled.ids h.settled.records rfl rfl

theorem reset (c : ResetCause) (pins : ResetPins) (s : State) : (s.resetPart c pins).Lawful where
  axes a := by
    have ha : (s.resetPart c pins).axis a = .reset (pinLevel pins.encA a.val) (pinLevel pins.encB a.val) (pinLevel pins.encZ a.val) := by
      simp [State.resetPart, State.axis, State.setFreeIndex, State.setPauses, State.setPending, State.afterReset]
    rw [ha]
    exact ⟨rfl, nofun, nofun⟩
  ids := .nil
  records := nofun
  idle _ := rfl
  turn := nofun

theorem executedOn {s : State} (h : s.Lawful) (row : Instr) : (s.executedOn row).Lawful := State.executedOn_keeps stage row h

theorem event {s t : State} {i : Instr} (ht : EventEffect s i t) (h : s.Lawful) : t.Lawful := by
  cases ht
  case absent => exact h
  case hardReset => exact reset _ _ s
  case commandReset => exact reset _ _ s
  case filteredSample => exact h.motion (s.filteredSample_motion _ _ _ _)
  case pinSample => exact h.motion (s.pinSample_motion _ _ _ _)
  case timeCount => exact h.motion (s.timeCount_motion _)
  case stepArrival =>
    have used : (s.setPauses s.pauses.tail).Lawful := { h with }
    exact used.stepArrival _ _
  case jumpArrival => exact h.jumpArrival _
  case strobeEdge => exact h.strobe (s.strobeEdge_motion _)
  case qualified => exact h.strobe (s.qualified_motion _)
  case strobeGroupArm => exact h.strobeGroupArm
  case signalLoss k _ _ =>
    have taken : (s.setRpq { s.rpq with signals := k }).Lawful := { h with }
    exact taken.loseSession _
  case silenceLoss => exact h.loseSession _
  case character value mark =>
    obtain ⟨q, c, he⟩ := s.character_eq value mark
    rw [he]
    exact { h with }
  case executed ht =>
    have dropped : s.dropEntry.Lawful := { h with }
    have done := command ht (fun hw => by rw [State.executedOn, if_pos hw]; exact s.dropEntry.settled_frame.2) (dropped.executedOn i)
    exact { done with }
  all_goals exact { h with }

end State.Lawful

/-- Settles O56: every effect of the list keeps the three laws together. -/
theorem stepKeepsAxesMarksAndArrivalLawful : Obligations.StepKeepsAxesMarksAndArrivalLawful := by
  intro s t ha hm hr hstep
  exact State.lawful_iff.mp (step_keeps (P := State.Lawful) (fun _ _ _ _ h => { h with }) (fun _ h => { h with })
    (fun _ _ _ h he => State.Lawful.event (exec_effect he) h) (State.lawful_iff.mpr ⟨ha, hm, hr⟩) hstep)

end Sys2Proof.Machine
end

section
/-! While the run state is HOLD every MARK-owned line stands at its safe level (O57): an arrival taken in HOLD has no list to run, and what else
reaches a line in HOLD is the host's, or puts the line at its safe level. -/

namespace Sys2Proof.Machine

/-- In HOLD the arrival in progress has no list running and no mark to fire (R64). -/
abbrev State.holdQuiet (s : State) : Prop :=
  s.rnc.state = .hold → s.acu = none ∧ ∀ r ∈ s.mks.arrival, r.fireList = [] ∧ r.firing = none

/-- The lines at their safe levels in HOLD, with what keeps an arrival from reaching them. -/
structure State.HoldLaw (s : State) : Prop where
  quiet : s.holdQuiet
  safe : s.holdSafe

/-- A step arrival taken in HOLD has no mark to fire, so no list is running (R64, R70). -/
theorem State.holdQuiet_of_arrivalLawful {s : State} (h : s.arrivalLawful) : s.holdQuiet := by
  intro hst
  obtain ⟨hidle, hturn⟩ := h
  cases hr : s.mks.arrival with
  | none => exact ⟨hidle hr, nofun⟩
  | some r =>
    obtain ⟨-, hrun, hhold, hlist, -, -⟩ := hturn r hr
    obtain ⟨hfire, hfiring⟩ := hhold (hrun.trans hst)
    refine ⟨Option.eq_none_iff_forall_ne_some.mpr fun c hc => ?_, fun x hx => ?_⟩
    · have := (hlist c hc).1
      rw [hfiring] at this
      cases this
    · cases hx
      exact ⟨hfire, hfiring⟩

/-- A line that a mark owns stands at its safe level with no pulse in flight (R92). -/
abbrev Line.markSafe (l : Line) : Prop := l.owner = .mark → l.level = l.safe ∧ l.pulse = none

namespace State.HoldLaw

/-- Nothing is asked of the lines in RUN. -/
theorem of_run {s : State} (h : s.rnc.state = .run) : s.HoldLaw :=
  ⟨fun hh => absurd (h.symm.trans hh) (by decide), fun hh => absurd (h.symm.trans hh) (by decide)⟩

/-- A stage of an arrival in HOLD is the end of that arrival. -/
theorem stage (s : State) (h : s.HoldLaw) : s.stage.HoldLaw := by
  obtain ⟨-, -, -, -, hrnc, -⟩ := s.stage_sameLink
  cases hst : s.rnc.state with
  | run => exact of_run (by rw [hrnc, hst])
  | hold =>
    obtain ⟨hacu, hturn⟩ := h.quiet hst
    unfold State.stage
    split
    · exact h
    · rename_i r hr
      obtain ⟨hfire, hfiring⟩ := hturn r hr
      rw [hacu, hfire, hfiring]
      have ended : (s.setArrival none).HoldLaw := ⟨fun _ => ⟨hacu, nofun⟩, h.safe⟩
      split
      · exact ended
      · exact ended

theorem settled {s : State} (h : s.HoldLaw) : s.settled.HoldLaw := State.settled_keeps stage h

/-- One line written, a MARK-owned one safe. -/
theorem setLine {s : State} (h : s.HoldLaw) {n : LineNo} {l : Line} (hl : s.rnc.state = .hold → l.markSafe) : (s.setLine n l).HoldLaw := by
  refine ⟨h.quiet, fun hst m => ?_⟩
  rw [State.setLine_line]
  split
  · exact hl hst
  · exact h.safe hst m

theorem motion {s t : State} (h : s.HoldLaw) (ht : s.AxisMotion t) : t.HoldLaw := by
  rw [ht.frame]
  exact ⟨h.quiet, h.safe⟩

theorem strobe {s t : State} (h : s.HoldLaw) (ht : s.StrobeMotion t) : t.HoldLaw := by
  rw [ht]
  exact ⟨h.quiet, h.safe⟩

theorem beginStepArrival {s : State} (h : s.HoldLaw) (a : Axis) (p : Int) (d : Direction) (t : Tick) :
    (s.beginStepArrival a p d t).HoldLaw := by
  unfold State.beginStepArrival
  dsimp only
  split
  · refine ⟨fun hst => ⟨(h.quiet hst).1, fun r hr => ?_⟩, h.safe⟩
    cases hr
    exact ⟨rfl, rfl⟩
  · rename_i hst
    exact of_run hst

theorem takeStepArrival {s : State} (h : s.HoldLaw) (a : Axis) (x : Option Nat) : (s.takeStepArrival a x).HoldLaw := by
  unfold State.takeStepArrival
  split
  · rename_i p d t rest _
    have popped : (s.setAxis a { s.axis a with arrivals := rest }).HoldLaw := ⟨h.quiet, h.safe⟩
    exact State.goOn_keeps stage x (popped.beginStepArrival a p d t)
  · exact h

theorem stepArrival {s : State} (h : s.HoldLaw) (x : Option Nat) (a : Axis) : (s.stepArrival x a).HoldLaw := by
  unfold State.stepArrival
  split
  · split
    · exact State.goOn_keeps stage x h
    · exact h.settled.takeStepArrival a x
  · exact h.takeStepArrival a x

theorem jumpArrival {s : State} (h : s.HoldLaw) (a : Axis) : (s.jumpArrival a).HoldLaw := by
  have hs := h.settled
  unfold State.jumpArrival
  dsimp only
  split
  · exact ⟨fun hst => ⟨(hs.quiet hst).1, nofun⟩, hs.safe⟩
  · exact hs

/-- An operation inside a firing reaches no line but by a request. -/
theorem withinTurn {s t : State} (h : s.HoldLaw) (ht : s.withinTurn t) (hl : t.lines = s.lines) : t.HoldLaw := by
  obtain ⟨⟨-, -, -, -, hrnc, -⟩, hturns, hacu⟩ := ht
  refine ⟨fun hst => ?_, fun hst n => ?_⟩
  · rw [hrnc] at hst
    obtain ⟨hidle, hturn⟩ := h.quiet hst
    refine ⟨by rw [hacu, hidle], fun r hr => ?_⟩
    have hr : t.mks.arrival = some r := hr
    unfold State.turns at hturns
    rw [hr] at hturns
    obtain ⟨x, hx, he⟩ := Option.map_eq_some_iff.mp hturns.symm
    obtain ⟨hfire, hfiring⟩ := hturn x hx
    simp only [Prod.mk.injEq] at he
    obtain ⟨-, -, -, hf, hg⟩ := he
    exact ⟨hf ▸ hfire, hg ▸ hfiring⟩
  · rw [hrnc] at hst
    have : t.line n = s.line n := by rw [State.line, State.line, hl]
    rw [this]
    exact h.safe hst n

end State.HoldLaw

/-! ### Arming and disarming reach no line -/

theorem State.armMark_lines (s : State) (id : MarkId) : (s.armMark id).1.lines = s.lines := by
  unfold State.armMark
  split
  · rfl
  · dsimp only
    split
    · rfl
    · split <;> rfl

theorem State.disarmMark_lines (s : State) (id : MarkId) : (s.disarmMark id).1.lines = s.lines := by
  unfold State.disarmMark
  split <;> rfl

namespace State.HoldLaw

theorem armMark {s : State} (h : s.HoldLaw) (id : MarkId) : (s.armMark id).1.HoldLaw :=
  h.withinTurn (s.armMark_withinTurn id) (s.armMark_lines id)

theorem disarmMark {s : State} (h : s.HoldLaw) (id : MarkId) : (s.disarmMark id).1.HoldLaw :=
  h.withinTurn (s.disarmMark_withinTurn id) (s.disarmMark_lines id)

theorem armEach (ids : List MarkId) {s : State} (h : s.HoldLaw) : (s.armEach ids).1.HoldLaw := by
  induction ids generalizing s with
  | nil => exact h
  | cons id rest ih => exact ih (h.armMark id)

theorem disarmEach (ids : List MarkId) {s : State} (h : s.HoldLaw) : (s.disarmEach ids).1.HoldLaw := by
  induction ids generalizing s with
  | nil => exact h
  | cons id rest ih => exact ih (h.disarmMark id)

theorem strobeGroupArm {s : State} (h : s.HoldLaw) : s.strobeGroupArm.HoldLaw := by
  have hs := h.settled
  unfold State.strobeGroupArm
  dsimp only
  split
  · exact hs
  · rename_i rest _
    have popped : (s.settled.setMks { s.settled.mks with groupArms := rest }).HoldLaw := ⟨hs.quiet, hs.safe⟩
    split
    · exact popped.armEach _
    · exact popped

/-! ### What reaches a line in HOLD -/

theorem driveSafe_markSafe (l : Line) : l.driveSafe.markSafe := fun _ => ⟨rfl, rfl⟩

/-- Every line at its safe level, with no list running and no mark to fire. -/
theorem of_driven {s t : State} (hl : t.lines = mapUnits Line.driveSafe s.lines) (hq : t.holdQuiet) : t.HoldLaw := by
  refine ⟨hq, fun _ n => ?_⟩
  have : t.line n = (s.line n).driveSafe := by simp [State.line, hl, mapUnits]
  rw [this]
  exact driveSafe_markSafe _

theorem loseSession {s : State} (hidle : s.settled.acu = none) (c : HoldCause) : (s.loseSession c).HoldLaw := by
  rw [State.loseSession_eq]
  refine of_driven (s := s.settled) rfl fun _ => ⟨hidle, fun r hr => ?_⟩
  have hr : s.settled.mks.arrival = some r := hr
  rw [s.settled_frame.2] at hr
  cases hr

/-- What the host's request leaves of a line is the host's. -/
theorem markSafe_of_host {l x : Line} {r : LineRequest} {t : Tick} (h : l.request .host r t = .taken x ∨ l.request .host r t = .busy x) :
    x.markSafe := by
  obtain ⟨hhost, hsame, -⟩ := Line.request_frame h
  have howner : x.owner = l.owner := congrArg Prod.fst hsame
  intro hm
  rw [howner, ← hhost] at hm
  cases hm

theorem expire_markSafe {l : Line} {t : Tick} (h : l.markSafe) : (l.expire t).markSafe := by
  unfold Line.expire
  split
  · rename_i p hp
    split
    · intro hm
      have := (h hm).2
      rw [hp] at this
      cases this
    · exact h
  · exact h

theorem configure_markSafe (l : Line) (o : Owner) (v : Level) (p : Policy) : (l.configure o v p).markSafe := fun _ => ⟨rfl, rfl⟩

/-! ### Commands and events -/

/-- The run state, which no unit reaches. -/
theorem runState_units (st : RunState) : KeptByUnits (fun _ => True) (fun s => s.rnc.state = st) where
  fits _ _ := trivial
  report _ _ _ h := h
  axis _ _ _ _ h := h
  scheduler _ _ _ _ h := h
  line _ _ _ _ _ h := h
  capture _ _ _ h := h
  strobe _ _ _ _ _ h := h

theorem enterRun_state (s : State) : s.enterRun.1.rnc.state = .run :=
  (runState_units .run).catchUpEach _ ((runState_units .run).report _ _ rfl (show (s.setRnc _).rnc.state = .run from rfl))

/-- The effect of a command, HOLD being executed with no arrival in progress. -/
theorem command {s t : State} {i : Instr} (ht : CommandEffect s i t) (hidle : i = .hold → s.acu = none ∧ s.mks.arrival = none)
    (h : s.HoldLaw) : t.HoldLaw := by
  cases ht
  case run => exact of_run (enterRun_state s)
  case hold =>
    obtain ⟨hacu, hn⟩ := hidle rfl
    refine of_driven (s := s) rfl fun _ => ⟨hacu, fun r hr => ?_⟩
    have hr : s.mks.arrival = some r := hr
    rw [hn] at hr
    cases hr
  case armMarks => exact State.eachMark_keeps (P := State.HoldLaw) (fun _ id hs => armMark hs id) _ h
  case disarmMarks => exact State.eachMark_keeps (P := State.HoldLaw) (fun _ id hs => disarmMark hs id) _ h
  case armGroup => exact h.armEach _
  case disarmGroup => exact h.disarmEach _
  case configLine n o v p => exact h.setLine fun _ => configure_markSafe _ o v p
  case driveLine n r l hl => exact h.setLine fun _ => markSafe_of_host hl
  case clearCollisions =>
    refine ⟨h.quiet, fun hst n => ?_⟩
    have hn := h.safe hst n
    simpa [State.line, mapUnits, Line.clearCount, State.setFreeIndex, State.setLines] using hn
  case captureNow =>
    rw [State.storeCapture_eq]
    exact ⟨h.quiet, h.safe⟩
  all_goals exact ⟨h.quiet, h.safe⟩

/-- A reset leaves every line HOST-owned (R97). -/
theorem reset_owner (s : State) (c : ResetCause) (pins : ResetPins) (n : LineNo) : ((s.resetPart c pins).line n).owner = .host := by
  simp [State.resetPart, State.line, State.setFreeIndex, State.setPauses, State.setPending, State.afterReset, Line.reset]

theorem reset (s : State) (c : ResetCause) (pins : ResetPins) : (s.resetPart c pins).HoldLaw :=
  ⟨fun _ => ⟨rfl, nofun⟩, fun _ n hm => absurd ((reset_owner s c pins n).symm.trans hm) (by decide)⟩

theorem event {s t : State} {i : Instr} (ht : EventEffect s i t) (ha : s.arrivalLawful) (h : s.HoldLaw) : t.HoldLaw := by
  have settled_idle : ∀ u : State, u.mks = s.mks → u.acu = s.acu → u.settled.acu = none := fun u hm hc =>
    State.settled_acu (by rw [hm, hc]; exact ha.1) fun r hr => by
      rw [hm] at hr
      have hstep := (ha.2 r hr).1
      cases hx : r.arrival with
      | step p d t => exact ⟨p, d, t, rfl⟩
      | jump p t =>
        rw [hx] at hstep
        cases hstep
  cases ht
  case absent => exact h
  case hardReset => exact reset s _ _
  case commandReset => exact reset s _ _
  case filteredSample => exact h.motion (s.filteredSample_motion _ _ _ _)
  case pinSample => exact h.motion (s.pinSample_motion _ _ _ _)
  case timeCount => exact h.motion (s.timeCount_motion _)
  case stepArrival =>
    have used : (s.setPauses s.pauses.tail).HoldLaw := ⟨h.quiet, h.safe⟩
    exact used.stepArrival _ _
  case jumpArrival => exact h.jumpArrival _
  case strobeEdge => exact h.strobe (s.strobeEdge_motion _)
  case qualified => exact h.strobe (s.qualified_motion _)
  case strobeGroupArm => exact h.strobeGroupArm
  case pulseEnd n => exact h.setLine fun hst => expire_markSafe (h.safe hst n)
  case signalLoss k _ _ => exact loseSession (settled_idle (s.setRpq { s.rpq with signals := k }) rfl rfl) _
  case silenceLoss => exact loseSession (settled_idle s rfl rfl) _
  case character value mark =>
    obtain ⟨q, c, he⟩ := s.character_eq value mark
    rw [he]
    exact ⟨h.quiet, h.safe⟩
  case executed ht =>
    have dropped : s.dropEntry.HoldLaw := ⟨h.quiet, h.safe⟩
    have done := command ht (fun hi => by
      subst hi
      exact ⟨settled_idle s.dropEntry rfl rfl, s.dropEntry.settled_frame.2⟩) (State.executedOn_keeps stage i dropped)
    exact ⟨done.quiet, done.safe⟩
  all_goals exact ⟨h.quiet, h.safe⟩

end State.HoldLaw

/-- Settles O57: in HOLD the effects of the list leave the lines to the host, to the end of a pulse and to the entry into HOLD. -/
theorem stepKeepsHoldSafe : Obligations.StepKeepsHoldSafe := by
  intro s t ha h hstep
  have law : s.HoldLaw := ⟨State.holdQuiet_of_arrivalLawful ha, h⟩
  rcases step_eq_next hstep with ⟨i, rest, -, he⟩ | ⟨-, rfl⟩
  · have taken : (s.setPending rest).HoldLaw := ⟨law.quiet, law.safe⟩
    exact (State.HoldLaw.event (exec_effect he) ha taken).safe
  · rcases s.idle_cases with ⟨p, n, q, he⟩ | ⟨p, he⟩ <;> rw [he] <;> exact h

end Sys2Proof.Machine
end

section
/-! Which events enter RUN, open and leave a session, begin a REPORT frame, and bind a line (O52). -/

namespace Sys2Proof.Machine

/-- A reset: HARD_RESET, or the end of the REPLY behind which a command reset is due (R149, R163). -/
abbrev resetsAt (s : State) (i : Instr) : Prop :=
  (∃ p, i = .hardReset p) ∨ ((∃ p, i = .txFrameDone p) ∧ s.cmi.resetDue = true)

/-! ### Run state, session and REPORT frames -/

/-- The run state, the session and the frame on the line are those of `s`. -/
structure SameRule (s t : State) : Prop where
  run : t.rnc.state = s.rnc.state
  session : t.cmi.session = s.cmi.session
  sending : t.ltx.sending = s.ltx.sending

theorem SameRule.refl (s : State) : SameRule s s := ⟨rfl, rfl, rfl⟩

/-- No unit reaches any of the three. -/
theorem sameRule_units (s : State) : KeptByUnits (fun _ => True) (SameRule s) where
  fits _ _ := trivial
  report _ _ _ h := { h with }
  axis _ _ _ _ h := { h with }
  scheduler _ _ _ _ h := { h with }
  line _ _ _ _ _ h := { h with }
  capture _ _ _ h := { h with }
  strobe _ _ _ _ _ h := { h with }

/-- What an event may do to the run state, the session and the frame on the line. -/
structure Ruled (i : Instr) (s t : State) : Prop where
  run : s.rnc.state = .hold → t.rnc.state = .run → i = .run
  opened : s.cmi.session ≠ .opened → t.cmi.session = .opened → i = .sync
  lost : s.cmi.session = .lost → t.cmi.session ≠ .lost → i = .sync ∨ resetsAt s i
  report : ∀ x, t.ltx.sending = some x → x.frame.kind = .report → s.ltx.sending = some x ∨ s.cmi.session = .opened

theorem Ruled.of_same {i : Instr} {s t : State} (h : SameRule s t) : Ruled i s t where
  run hs ht := absurd (hs.symm.trans (h.run.symm.trans ht)) (by decide)
  opened hs ht := absurd (h.session.symm.trans ht) hs
  lost hs ht := absurd (h.session.trans hs) ht
  report x hx _ := .inl (h.sending.symm.trans hx)

/-- A frame begun or ended that is not a REPORT. -/
theorem Ruled.of_sent {i : Instr} {s t : State} (hrun : t.rnc.state = s.rnc.state) (hsession : t.cmi.session = s.cmi.session)
    (hsent : ∀ x, t.ltx.sending = some x → x.frame.kind ≠ .report) : Ruled i s t where
  run hs ht := absurd (hs.symm.trans (hrun.symm.trans ht)) (by decide)
  opened hs ht := absurd (hsession.symm.trans ht) hs
  lost hs ht := absurd (hsession.trans hs) ht
  report x hx hk := absurd hk (hsent x hx)

/-- In OPEN an event may do as it likes with the session and the frame, so it keeps to HOLD. -/
theorem Ruled.of_opened {i : Instr} {s t : State} (ho : s.cmi.session = .opened)
    (hrun : s.rnc.state = .hold → t.rnc.state = .run → i = .run) : Ruled i s t where
  run := hrun
  opened hs := absurd ho hs
  lost hs := absurd (ho.symm.trans hs) (by decide)
  report _ _ _ := .inr ho

/-- A reset leaves HOLD, no session and no frame. -/
theorem Ruled.reset {i : Instr} {s : State} (h : resetsAt s i) (c : ResetCause) (pins : ResetPins) : Ruled i s (s.resetPart c pins) where
  run _ := nofun
  opened _ := nofun
  lost _ _ := .inr h
  report := nofun

/-- A command leaves the run state, enters HOLD, or is RUN (R117, R118). -/
theorem CommandEffect.runState {s t : State} {i : Instr} (ht : CommandEffect s i t) :
    t.rnc.state = s.rnc.state ∨ t.rnc.state = .hold ∨ i = .run := by
  have hP := State.HoldLaw.runState_units s.rnc.state
  cases ht
  case run => exact .inr (.inr rfl)
  case hold => exact .inr (.inl rfl)
  case armMarks =>
    exact .inl (State.eachMark_keeps (P := fun u => u.rnc.state = s.rnc.state) (fun _ id hs => hP.armMark id hs) _ rfl)
  case disarmMarks =>
    exact .inl (State.eachMark_keeps (P := fun u => u.rnc.state = s.rnc.state) (fun _ id hs => hP.disarmMark id hs) _ rfl)
  case armGroup => exact .inl (hP.armMembers _ rfl)
  case disarmGroup => exact .inl (hP.disarmMembers _ rfl)
  case captureNow =>
    rw [State.storeCapture_eq]
    exact .inl rfl
  all_goals exact .inl rfl

/-- A character reaches the Report Queue and the silence timer, and not the session itself (R144, R157). -/
theorem State.handOn_sameRule (s : State) (x : Option Accepted) : SameRule s (s.handOn x) := by
  have accepted : ∀ u : State, SameRule s u → SameRule s u.frameAccepted := by
    intro u hu
    unfold State.frameAccepted
    split
    · exact { hu with }
    · exact hu
  have same := SameRule.refl s
  unfold State.handOn
  split
  · exact same
  · refine accepted _ ?_
    unfold State.takeAck
    split
    · exact { same with }
    · exact same
  · exact accepted _ same

theorem EventEffect.ruled {s t : State} {i : Instr} (ht : EventEffect s i t) : Ruled i s t := by
  have hP := sameRule_units s
  have same := SameRule.refl s
  cases ht
  case hardReset pins => exact .reset (.inl ⟨pins, rfl⟩) _ _
  case commandReset pins hd => exact .reset (.inr ⟨⟨pins, rfl⟩, hd⟩) _ _
  case filteredSample => exact .of_same (hP.filteredSample _ _ _ _ same)
  case pinSample => exact .of_same (hP.pinSample _ _ _ _ same)
  case timeCount => exact .of_same (hP.timeCount _ same)
  case stepArrival =>
    have used : SameRule s (s.setPauses s.pauses.tail) := { same with }
    exact .of_same (hP.stepArrival _ _ used)
  case jumpArrival => exact .of_same (hP.jumpArrival _ same)
  case strobeEdge => exact .of_same (hP.strobeEdge _ same)
  case qualified => exact .of_same (hP.qualified _ (fun _ _ => trivial) same)
  case strobeGroupArm => exact .of_same (hP.strobeGroupArm same)
  case signalLoss k _ ho =>
    refine .of_opened ho fun _ hr => ?_
    rw [State.loseSession_eq] at hr
    cases hr
  case silenceLoss ho =>
    refine .of_opened ho fun _ hr => ?_
    rw [State.loseSession_eq] at hr
    cases hr
  case character value mark =>
    have received : SameRule s (s.setLrx ((s.lrx.afterCharacter mark).frame value mark s.tick).1) := { same with }
    have handed := State.handOn_sameRule (s.setLrx ((s.lrx.afterCharacter mark).frame value mark s.tick).1)
      ((s.lrx.afterCharacter mark).frame value mark s.tick).2
    exact .of_same
      { run := handed.run.trans received.run
        session := handed.session.trans received.session
        sending := handed.sending.trans received.sending }
  case sendReply r _ =>
    refine .of_sent rfl rfl fun x hx hk => ?_
    cases hx
    cases hk
  case sendHello =>
    refine .of_sent rfl rfl fun x hx hk => ?_
    cases hx
    cases hk
  case sendReport r hr =>
    have ho : s.cmi.session = .opened := State.offered_session hr
    exact .of_opened ho fun hs ht => absurd (hs.symm.trans ht) (by decide)
  case replyDone => exact .of_sent rfl rfl nofun
  case otherDone => exact .of_sent rfl rfl nofun
  case sync => exact
    { run := fun hs ht => absurd (hs.symm.trans ht) (by decide)
      opened := fun _ _ => rfl
      lost := fun _ _ => .inl rfl
      report := fun x hx _ => .inl hx }
  case executed ho _ ht =>
    refine .of_opened ho fun hs hr => ?_
    have hexec : (s.dropEntry.executedOn i).rnc.state = s.rnc.state :=
      State.executedOn_keeps (P := fun u => u.rnc.state = s.rnc.state) (State.HoldLaw.runState_units s.rnc.state).stage i rfl
    rcases ht.runState with hk | hk | hk
    · exact absurd (hs.symm.trans (hexec.symm.trans (hk.symm.trans hr))) (by decide)
    · exact absurd (hk.symm.trans hr) (by decide)
    · exact hk
  all_goals exact .of_same { same with }

/-! ### The binding of a line -/

/-- Who owns a line, where it is safe, and what it does with a collision (Table 5-1). -/
def Line.binding (l : Line) : Owner × Level × Policy := (l.owner, l.safe, l.policy)

/-- Every line is bound as in `s`. -/
abbrev SameBindings (s t : State) : Prop := ∀ n, (t.line n).binding = (s.line n).binding

theorem SameBindings.setLine {s u : State} (h : SameBindings s u) {n : LineNo} {l : Line} (hl : l.binding = (u.line n).binding) :
    SameBindings s (u.setLine n l) := by
  intro m
  rw [State.setLine_line]
  split
  · rename_i he
    rw [hl, he, h]
  · exact h m

theorem SameBindings.mapLines {s u t : State} (h : SameBindings s u) {f : Line → Line} (hf : ∀ l, (f l).binding = l.binding)
    (ht : t.lines = mapUnits f u.lines) : SameBindings s t := by
  intro n
  have : t.line n = f (u.line n) := by simp [State.line, ht, mapUnits]
  rw [this, hf, h]

/-- A request, taken or refused as busy, leaves the binding (R87 to R90). -/
theorem sameBindings_units (s : State) : KeptByUnits (fun _ => True) (SameBindings s) where
  fits _ _ := trivial
  report _ _ _ h := h
  axis _ _ _ _ h := h
  scheduler _ _ _ _ h := h
  line _ _ _ _ hr h := SameBindings.setLine h (Line.request_frame hr).2.1
  capture _ _ _ h := h
  strobe _ _ _ _ _ h := h

theorem CommandEffect.bindings {s u t : State} {i : Instr} (ht : CommandEffect s i t) (hi : i ≠ .configLine) (h : SameBindings u s) :
    SameBindings u t := by
  have hP := sameBindings_units u
  cases ht
  case run => exact hP.catchUpEach _ (hP.report _ _ rfl (show SameBindings u (s.setRnc _) from h))
  case hold => exact h.mapLines (t := s.enterHold _) (f := Line.driveSafe) (fun _ => rfl) rfl
  case armMarks => exact State.eachMark_keeps (P := SameBindings u) (fun _ id hs => hP.armMark id hs) _ h
  case disarmMarks => exact State.eachMark_keeps (P := SameBindings u) (fun _ id hs => hP.disarmMark id hs) _ h
  case armGroup => exact hP.armMembers _ h
  case disarmGroup => exact hP.disarmMembers _ h
  case configLine => exact absurd rfl hi
  case driveLine n r l hl => exact h.setLine (Line.request_frame hl).2.1
  case clearCollisions => exact h.mapLines (f := Line.clearCount) (fun _ => rfl) rfl
  case captureNow =>
    rw [State.storeCapture_eq]
    exact h
  all_goals exact h

theorem Line.expire_binding (l : Line) (t : Tick) : (l.expire t).binding = l.binding := by
  unfold Line.expire
  split
  · split <;> rfl
  · rfl

theorem SameBindings.loseSession {s u : State} (h : SameBindings u s.settled) (c : HoldCause) : SameBindings u (s.loseSession c) := by
  rw [State.loseSession_eq]
  exact h.mapLines (f := Line.driveSafe) (fun _ => rfl) rfl

theorem EventEffect.bindings {s t : State} {i : Instr} (ht : EventEffect s i t) (hi : i ≠ .configLine) (hr : ¬ resetsAt s i) :
    SameBindings s t := by
  have hP := sameBindings_units s
  have same : SameBindings s s := fun _ => rfl
  cases ht
  case hardReset pins => exact absurd (.inl ⟨pins, rfl⟩) hr
  case commandReset pins hd => exact absurd (.inr ⟨⟨pins, rfl⟩, hd⟩) hr
  case filteredSample => exact hP.filteredSample _ _ _ _ same
  case pinSample => exact hP.pinSample _ _ _ _ same
  case timeCount => exact hP.timeCount _ same
  case stepArrival => exact hP.stepArrival (s := s.setPauses _) _ _ same
  case jumpArrival => exact hP.jumpArrival _ same
  case strobeEdge => exact hP.strobeEdge _ same
  case qualified => exact hP.qualified _ (fun _ _ => trivial) same
  case strobeGroupArm => exact hP.strobeGroupArm same
  case pulseEnd n => exact same.setLine (Line.expire_binding _ _)
  case signalLoss k _ _ => exact .loseSession (hP.settled (s := s.setRpq { s.rpq with signals := k }) same) _
  case silenceLoss => exact .loseSession (hP.settled same) _
  case character value mark =>
    obtain ⟨q, c, he⟩ := s.character_eq value mark
    rw [he]
    exact same
  case executed ht =>
    exact ht.bindings hi (State.executedOn_keeps (P := SameBindings s) hP.stage i same)
  all_goals exact same

/-- Settles O52: each part reads off what the effects of the list do to the run state, the session, the frame on the line and the
bindings; a reset and a request of a mark are computed. -/
theorem onlyTheirCommandsOpenAndRun : Obligations.OnlyTheirCommandsOpenAndRun := by
  refine ⟨fun i s t he => (exec_effect he).ruled.run, fun i s t he => ?_, fun i s t x he => (exec_effect he).ruled.report x,
    fun i s t l he => ⟨fun hne => ?_, ?_⟩, fun line request tick ho => ?_⟩
  · exact ⟨(exec_effect he).ruled.opened, (exec_effect he).ruled.lost⟩
  · by_contra hnot
    rw [not_or] at hnot
    exact hne ((exec_effect he).bindings hnot.1 hnot.2 l)
  · rintro ⟨p, rfl⟩
    injection he with he
    rw [← he]
    exact State.HoldLaw.reset_owner s _ p l
  · unfold Line.request
    rw [ho, if_pos (by decide)]

end Sys2Proof.Machine
end

section
/-! A mark record followed through an arrival and through a command: what one arming, disarming, firing, catch-up or move does to it says what the
whole event does. -/

namespace Sys2Proof.Machine

/-! ### The arrival record goes on -/

/-- The record `v` is the record `r` further on: no turn is added, and no disarming forgotten. -/
structure ArrivalRecord.Onward (r v : ArrivalRecord) : Prop where
  axis : v.axis = r.axis
  arrival : v.arrival = r.arrival
  fireList : v.fireList ⊆ r.fireList
  left : v.left ⊆ r.left
  disarmed : r.disarmed ⊆ v.disarmed

theorem ArrivalRecord.Onward.refl (r : ArrivalRecord) : r.Onward r :=
  ⟨rfl, rfl, List.Subset.refl _, List.Subset.refl _, List.Subset.refl _⟩

theorem ArrivalRecord.Onward.trans {r v w : ArrivalRecord} (h : r.Onward v) (k : v.Onward w) : r.Onward w :=
  ⟨k.axis.trans h.axis, k.arrival.trans h.arrival, List.Subset.trans k.fireList h.fireList, List.Subset.trans k.left h.left,
    List.Subset.trans h.disarmed k.disarmed⟩

/-- The arrival in progress in `t`, if any, is that of `s` further on. -/
def State.arrivalFrom (s t : State) : Prop := ∀ v ∈ t.mks.arrival, ∃ r ∈ s.mks.arrival, r.Onward v

namespace State.arrivalFrom

theorem of_eq {s t : State} (h : t.mks.arrival = s.mks.arrival) : s.arrivalFrom t := fun v hv => ⟨v, h ▸ hv, .refl v⟩

theorem refl (s : State) : s.arrivalFrom s := of_eq rfl

theorem trans {s t u : State} (h : s.arrivalFrom t) (k : t.arrivalFrom u) : s.arrivalFrom u := by
  intro w hw
  obtain ⟨v, hv, hvw⟩ := k w hw
  obtain ⟨r, hr, hrv⟩ := h v hv
  exact ⟨r, hr, hrv.trans hvw⟩

theorem map {s t : State} {f : ArrivalRecord → ArrivalRecord} (h : t.mks.arrival = s.mks.arrival.map f)
    (hf : ∀ r ∈ s.mks.arrival, r.Onward (f r)) : s.arrivalFrom t := by
  intro v hv
  rw [h] at hv
  obtain ⟨r, hr, rfl⟩ := Option.map_eq_some_iff.mp hv
  exact ⟨r, hr, hf r hr⟩

end State.arrivalFrom

/-! ### A record tracked -/

theorem State.mark_putMark {s : State} (h : SortedIds s.mks.marks) (y : Mark) (id : MarkId) :
    (s.putMark y).mark id = if y.id = id then some y else s.mark id := findMark_putRecord h y id

/-- What an arrival begun at `s` does to a record keeps `R`, a relation that may speak of the arrival at the state it is taken at. -/
structure MarkMoves (s : State) (R : State → Mark → Mark → Prop) : Prop where
  onward : ∀ {u v : State} {m n : Mark}, u.arrivalFrom v → R u m n → R v m n
  arm : ∀ {u : State} {m x : Mark} (c : AxisConfig) (p : Int), u.Lawful → u.mark x.id = some x → x.active = false → R u m x →
    R u m (x.arm c p)
  disarmed : ∀ {u : State} {m x : Mark}, R u m x → R u m x.disarmed
  fired : ∀ {u : State} {r : ArrivalRecord} {m x : Mark} (c : AxisConfig), u.mks.arrival = some r → x.id ∈ r.left →
    x.id ∉ r.disarmed → R u m x → R u m (x.fired c)
  counted : ∀ {u : State} {r : ArrivalRecord} {m x : Mark} {p : Int} {d : Direction} {t : Tick}, s.arrivalFrom u →
    u.mks.arrival = some r → r.arrival = .step p d t → x.id ∈ r.fireList → x.id ∉ r.disarmed → R u m x → R u m (x.counted t)

/-- The records at `u` come from those at `s`, the arrival in progress being that of `s` further on. -/
structure Tracked (s : State) (R : State → Mark → Mark → Prop) (u : State) : Prop where
  lawful : u.Lawful
  arrival : s.arrivalFrom u
  records : ∀ (id : MarkId) (n : Mark), u.mark id = some n → ∃ m, s.mark id = some m ∧ R u m n

namespace Tracked

variable {s u v : State} {R : State → Mark → Mark → Prop}

theorem start (h : s.Lawful) (hR : ∀ m, R s m m) : Tracked s R s := ⟨h, .refl s, fun _ n hn => ⟨n, hn, hR n⟩⟩

/-- The records untouched, the arrival going on. -/
theorem of_marks (hR : MarkMoves s R) (h : Tracked s R u) (hv : v.Lawful) (hm : v.mks.marks = u.mks.marks) (ha : u.arrivalFrom v) :
    Tracked s R v := by
  refine ⟨hv, h.arrival.trans ha, fun id n hn => ?_⟩
  have hn : u.mark id = some n := by rwa [State.mark, hm] at hn
  obtain ⟨m, hms, hmn⟩ := h.records id n hn
  exact ⟨m, hms, hR.onward ha hmn⟩

/-- The record `y` written over `x`, the arrival going on. -/
theorem written (hR : MarkMoves s R) (h : Tracked s R u) (hv : v.Lawful) {x y : Mark} (hm : v.mks.marks = putRecord y u.mks.marks)
    (ha : u.arrivalFrom v) (hx : u.mark y.id = some x) (hy : ∀ m, R u m x → R u m y) : Tracked s R v := by
  refine ⟨hv, h.arrival.trans ha, fun id n hn => ?_⟩
  rw [State.mark, hm, findMark_putRecord h.lawful.ids] at hn
  split at hn
  · rename_i he
    cases hn
    subst he
    obtain ⟨m, hms, hmx⟩ := h.records _ x hx
    exact ⟨m, hms, hR.onward ha (hy m hmx)⟩
  · obtain ⟨m, hms, hmn⟩ := h.records id n hn
    exact ⟨m, hms, hR.onward ha hmn⟩

theorem armMark (h : Tracked s R u) (hR : MarkMoves s R) (id : MarkId) : Tracked s R (u.armMark id).1 := by
  have hv := h.lawful.armMark id
  revert hv
  unfold State.armMark
  split
  · exact fun _ => h
  · rename_i x hx
    have hid : x.id = id := findMark_id hx
    subst hid
    dsimp only
    split
    · exact fun _ => h
    · rename_i hidle
      split
      · refine fun hv => h.written hR hv rfl (.of_eq rfl) (by rw [Mark.arm_id]; exact hx) fun m hm => ?_
        exact hR.arm _ _ h.lawful hx (Bool.eq_false_iff.mpr hidle) hm
      · exact fun _ => h

theorem disarmMark (h : Tracked s R u) (hR : MarkMoves s R) (id : MarkId) : Tracked s R (u.disarmMark id).1 := by
  have hv := h.lawful.disarmMark id
  revert hv
  unfold State.disarmMark
  split
  · exact fun _ => h
  · rename_i x hx
    have hid : x.id = id := findMark_id hx
    subst hid
    exact fun hv => h.written hR hv (y := x.disarmed) rfl
      (.map rfl fun r _ => { ArrivalRecord.Onward.refl r with disarmed := List.subset_cons_self _ _ }) hx fun m hm => hR.disarmed hm

theorem armEach (ids : List MarkId) (hR : MarkMoves s R) {u : State} (h : Tracked s R u) : Tracked s R (u.armEach ids).1 := by
  induction ids generalizing u with
  | nil => exact h
  | cons id rest ih => exact ih (h.armMark hR id)

theorem disarmEach (ids : List MarkId) (hR : MarkMoves s R) {u : State} (h : Tracked s R u) : Tracked s R (u.disarmEach ids).1 := by
  induction ids generalizing u with
  | nil => exact h
  | cons id rest ih => exact ih (h.disarmMark hR id)

/-- An entry of an action list reaches the records by arming and disarming only (R82, R83). -/
theorem takeEntry (h : Tracked s R u) (hR : MarkMoves s R) (c : ActionContext) (x : Action) : Tracked s R (u.takeEntry c x) := by
  have hv := h.lawful.takeEntry c x
  have line : ∀ (n : LineNo) (r : LineRequest), (u.lineAction c n r).mks = u.mks := by
    intro n r
    unfold State.lineAction
    split <;> rfl
  have untouched : (u.takeEntry c x).mks = u.mks → Tracked s R (u.takeEntry c x) := fun he =>
    h.of_marks hR hv (by rw [he]) (.of_eq (by rw [he]))
  cases x with
  | pulse n v w => exact untouched (line n _)
  | set n v => exact untouched (line n _)
  | toggle n => exact untouched (line n _)
  | snapshot mask =>
    refine untouched ?_
    simp only [State.takeEntry, State.snapshotAction]
    split
    · rfl
    · split
      · rw [State.storeCapture_eq]
      · rw [State.loseCapture_eq]
        rfl
  | preset a v =>
    have hread : ∀ t : State, t = u.takeEntry c (.preset a v) → t.mks.marks = u.mks.marks ∧ u.arrivalFrom t := by
      rintro t rfl
      simp only [State.takeEntry, State.presetAction]
      split
      · exact ⟨rfl, .of_eq rfl⟩
      · split
        · refine ⟨rfl, .map rfl fun r _ => ?_⟩
          split
          · exact { ArrivalRecord.Onward.refl r with }
          · exact .refl r
        · exact ⟨rfl, .of_eq rfl⟩
    obtain ⟨hm, ha⟩ := hread _ rfl
    exact h.of_marks hR hv hm ha
  | armGroup g => exact h.armEach _ hR
  | disarmGroup g => exact h.disarmEach _ hR

theorem nextEntry (h : Tracked s R u) (hR : MarkMoves s R) {c : ActionContext} (hc : u.acu = some c) : Tracked s R (u.nextEntry c) := by
  have hv := h.lawful.nextEntry hc
  revert hv
  unfold State.nextEntry
  split
  · exact fun hv => h.of_marks hR hv rfl (.of_eq rfl)
  · exact fun hv => (h.takeEntry hR c _).of_marks hR hv rfl (.of_eq rfl)

/-- Its list finished, the mark that was firing has fired unless it was disarmed since (R56 to R58). -/
theorem endFiring (h : Tracked s R u) (hR : MarkMoves s R) (hc : u.acu = none) {r : ArrivalRecord} (hr : u.mks.arrival = some r)
    {id : MarkId} (hf : r.firing = some id) (p : Int) (d : Direction) (t : Tick) : Tracked s R (u.endFiring id p d t) := by
  have hv := h.lawful.endFiring hc hr hf p d t
  have ending : u.arrivalFrom (u.setFiring none) := .map rfl fun r _ =>
    { ArrivalRecord.Onward.refl r with left := fun x hx => List.mem_append_right _ hx }
  revert hv
  unfold State.endFiring
  split
  · rename_i x hx
    have hid : x.id = id := findMark_id hx
    subst hid
    rw [State.reportIf_eq]
    generalize (if x.report then u.rpq.take (x.firedReport p d t) u.tick else u.rpq) = q
    unfold State.transition
    rw [show State.mark { u with rpq := q } x.id = some x from hx]
    dsimp only
    split
    · exact fun hv => h.of_marks hR hv rfl ending
    · rename_i hd
      have hd : x.id ∉ r.disarmed := by simpa [State.disarmedSince, hr] using hd
      have hleft : x.id ∈ r.left := List.mem_append_left _ (by rw [hf]; exact List.mem_singleton_self _)
      exact fun hv => h.written hR hv rfl ending (by rw [Mark.fired_id]; exact hx) fun m hm => hR.fired _ hr hleft hd hm
  · exact fun hv => h.of_marks hR hv rfl ending

/-- A turn begins: its mark is counted, or is passed over (R53, R54). -/
theorem beginTurn (h : Tracked s R u) (hR : MarkMoves s R) (hc : u.acu = none) {r : ArrivalRecord} (hr : u.mks.arrival = some r)
    (hf : r.firing = none) {id : MarkId} {rest : List MarkId} (hl : r.fireList = id :: rest) {p : Int} {d : Direction} {t : Tick}
    (hx : r.arrival = .step p d t) : Tracked s R ((u.setFireList rest).beginTurn id t) := by
  have hv := h.lawful.beginTurn hc hr hf hl t
  have hrest : rest ⊆ r.fireList := by
    rw [hl]
    exact List.subset_cons_self _ _
  have passing : u.arrivalFrom (u.setFireList rest) := .map rfl fun r' hr' => by
    obtain rfl : r = r' := Option.some.inj (hr.symm.trans hr')
    have hleft : ({ r with fireList := rest } : ArrivalRecord).left ⊆ r.left :=
      List.append_subset_of_subset_of_subset (List.subset_append_left _ _) (List.subset_append_of_subset_right _ hrest)
    exact { ArrivalRecord.Onward.refl r with fireList := hrest, left := hleft }
  revert hv
  unfold State.beginTurn
  split
  · rename_i x hm
    have hm : u.mark id = some x := hm
    have hid : x.id = id := findMark_id hm
    subst hid
    split
    · rename_i hturn
      have hd : x.id ∉ r.disarmed := by
        have he : (u.setFireList rest).mks.arrival = some { r with fireList := rest } := by
          change u.mks.arrival.map _ = _
          rw [hr]
          rfl
        simpa [State.disarmedSince, he] using hturn.2
      have begun : u.arrivalFrom (((u.putMark (x.counted t)).setFireList rest).setFiring (some x.id)) := by
        refine .map (f := fun r => { r with fireList := rest, firing := some x.id })
          (by rw [State.setFiring_setFireList]; rfl) fun r' hr' => ?_
        obtain rfl : r = r' := Option.some.inj (hr.symm.trans hr')
        have hleft : ({ r with fireList := rest, firing := some x.id } : ArrivalRecord).left = r.left := by
          rw [ArrivalRecord.left, ArrivalRecord.left, hf, hl]
          rfl
        exact { ArrivalRecord.Onward.refl r with fireList := hrest, left := by rw [hleft]; exact List.Subset.refl _ }
      have hfire : x.id ∈ r.fireList := by
        rw [hl]
        exact List.mem_cons_self
      exact fun hv => h.written hR hv (y := x.counted t) rfl begun hm fun m hmx => hR.counted h.arrival hr hx hfire hd hmx
    · exact fun hv => h.of_marks hR hv rfl passing
  · exact fun hv => h.of_marks hR hv rfl passing

/-- A stage of the arrival keeps every record tracked (R53 to R58, R71). -/
theorem stage (hR : MarkMoves s R) (u : State) (h : Tracked s R u) : Tracked s R u.stage := by
  have hv := State.Lawful.stage u h.lawful
  revert hv
  unfold State.stage
  split
  · exact fun _ => h
  · rename_i r hr
    split
    · exact fun hv => h.of_marks hR hv rfl nofun
    · rename_i p d t hx
      split
      · rename_i c hc
        exact fun _ => h.nextEntry hR hc
      · rename_i hc hf
        exact fun _ => h.endFiring hR hc hr hf p d t
      · rename_i hc hf hl
        exact fun _ => h.beginTurn hR hc hr hf hl hx
      · exact fun hv => h.of_marks hR hv rfl nofun

end Tracked

end Sys2Proof.Machine
end

section
/-! What a command, the catch-up and a group arming do to the mark records, said as a relation between the records before and after. -/

namespace Sys2Proof.Machine

/-- Every record of `t` comes from the record of the same id in `s`, as `R` says. -/
def State.recordsFrom (R : Mark → Mark → Prop) (s t : State) : Prop :=
  ∀ (id : MarkId) (n : Mark), t.mark id = some n → ∃ m, s.mark id = some m ∧ R m n

namespace State.recordsFrom

variable {R : Mark → Mark → Prop} {s t u : State}

theorem of_marks (hR : ∀ m, R m m) (h : t.mks.marks = s.mks.marks) : s.recordsFrom R t :=
  fun id n hn => ⟨n, by rwa [State.mark, h] at hn, hR n⟩

theorem trans (hR : ∀ {m x n}, R m x → R x n → R m n) (h : s.recordsFrom R t) (k : t.recordsFrom R u) : s.recordsFrom R u := by
  intro id n hn
  obtain ⟨x, hx, hxn⟩ := k id n hn
  obtain ⟨m, hm, hmx⟩ := h id x hx
  exact ⟨m, hm, hR hmx hxn⟩

theorem putMark (hR : ∀ m, R m m) (hi : SortedIds s.mks.marks) {x y : Mark} (hx : s.mark y.id = some x) (hxy : R x y)
    (ht : t.mks.marks = (s.putMark y).mks.marks) : s.recordsFrom R t := by
  intro id n hn
  have hn : (s.putMark y).mark id = some n := by rwa [State.mark, ht] at hn
  rw [State.mark_putMark hi] at hn
  split at hn
  · rename_i he
    cases hn
    exact ⟨x, he ▸ hx, hxy⟩
  · exact ⟨n, hn, hR n⟩

theorem armMark (hR : ∀ m, R m m) (harm : ∀ m c p, R m (m.arm c p)) (hi : SortedIds s.mks.marks) (id : MarkId) :
    s.recordsFrom R (s.armMark id).1 := by
  unfold State.armMark
  split
  · exact of_marks hR rfl
  · rename_i x hx
    dsimp only
    split
    · exact of_marks hR rfl
    · split
      · refine putMark hR hi (x := x) ?_ (harm x _ _) rfl
        rw [Mark.arm_id, findMark_id hx]
        exact hx
      · exact of_marks hR rfl

theorem disarmMark (hR : ∀ m, R m m) (hdisarmed : ∀ m, R m m.disarmed) (hi : SortedIds s.mks.marks) (id : MarkId) :
    s.recordsFrom R (s.disarmMark id).1 := by
  unfold State.disarmMark
  split
  · exact of_marks hR rfl
  · rename_i x hx
    refine putMark hR hi (x := x) (y := x.disarmed) ?_ (hdisarmed x) rfl
    rw [Mark.disarmed_id, findMark_id hx]
    exact hx

theorem eachMark (hR : ∀ m, R m m) (htrans : ∀ {m x n}, R m x → R x n → R m n) {op : State → MarkId → State × MarkResult}
    (hop : ∀ s id, s.Lawful → (op s id).1.Lawful ∧ s.recordsFrom R (op s id).1) (ids : List MarkId) {s : State} (h : s.Lawful) :
    s.recordsFrom R (s.eachMark op ids).1 := by
  induction ids generalizing s with
  | nil => exact of_marks hR rfl
  | cons id rest ih => exact trans htrans (hop s id h).2 (ih (hop s id h).1)

theorem catchUpEach (hR : ∀ m, R m m) (htrans : ∀ {m x n}, R m x → R x n → R m n)
    (hcatch : ∀ {m n : Mark} {c : AxisConfig} {p : Int} {k : Nat}, m.catchUp c p = some (n, k) → R m n) (ids : List MarkId) {s : State}
    (hi : SortedIds s.mks.marks) : s.recordsFrom R (s.catchUpEach ids).1 := by
  induction ids generalizing s with
  | nil => exact of_marks hR rfl
  | cons id rest ih =>
    unfold State.catchUpEach
    split
    · exact ih hi
    · rename_i n k hk
      obtain ⟨x, hx, hc⟩ := Option.bind_eq_some_iff.mp hk
      have put : s.recordsFrom R ((s.putMark n).report (n.skippedReport k s.tick)) := by
        refine putMark hR hi (x := x) ?_ (hcatch hc) rfl
        rw [Mark.catchUp_id hc, findMark_id hx]
        exact hx
      have hids : SortedIds ((s.putMark n).report (n.skippedReport k s.tick)).mks.marks := hi.putRecord n
      exact trans htrans put (ih hids)

end State.recordsFrom

theorem State.armEach_eachMark (ids : List MarkId) (s : State) : (s.armEach ids).1 = (s.eachMark State.armMark ids).1 := by
  induction ids generalizing s with
  | nil => rfl
  | cons id rest ih => exact ih _

theorem State.disarmEach_eachMark (ids : List MarkId) (s : State) : (s.disarmEach ids).1 = (s.eachMark State.disarmMark ids).1 := by
  induction ids generalizing s with
  | nil => rfl
  | cons id rest ih => exact ih _

/-! ### Commands -/

/-- What the command `i` does to a record keeps `R`, a preorder. -/
structure CommandMoves (i : Instr) (R : Mark → Mark → Prop) : Prop where
  refl : ∀ m, R m m
  trans : ∀ {m x n}, R m x → R x n → R m n
  arm : i = .armMarks ∨ i = .armGroup ∨ i = .strobeGroupArm → ∀ m c p, R m (m.arm c p)
  disarmed : ∀ m, R m m.disarmed
  catchUp : i = .run → ∀ {m n : Mark} {c : AxisConfig} {p : Int} {k : Nat}, m.catchUp c p = some (n, k) → R m n
  move : ∀ {m n : Mark} {u : AxisUnit} {relative : Bool} {v : Int}, m.move u relative v = some n → R m n

namespace CommandMoves

variable {i : Instr} {R : Mark → Mark → Prop}

theorem armMarks (hR : CommandMoves i R) (hi : i = .armMarks ∨ i = .armGroup ∨ i = .strobeGroupArm) (ids : List MarkId) {s : State}
    (h : s.Lawful) : s.recordsFrom R (s.eachMark State.armMark ids).1 :=
  .eachMark hR.refl hR.trans (fun _ id hs => ⟨hs.armMark id, .armMark hR.refl (hR.arm hi) hs.ids id⟩) ids h

theorem armMembers (hR : CommandMoves i R) (hi : i = .armMarks ∨ i = .armGroup ∨ i = .strobeGroupArm) (g : GroupNo) {s : State}
    (h : s.Lawful) : s.recordsFrom R (s.armMembers g).1 := by
  rw [State.armMembers, State.armEach_eachMark]
  exact hR.armMarks hi _ h

theorem disarmMarks (hR : CommandMoves i R) (ids : List MarkId) {s : State} (h : s.Lawful) :
    s.recordsFrom R (s.eachMark State.disarmMark ids).1 :=
  .eachMark hR.refl hR.trans (fun _ id hs => ⟨hs.disarmMark id, .disarmMark hR.refl hR.disarmed hs.ids id⟩) ids h

end CommandMoves

/-- The id of a record that MOVE_MARK and DEFINE_MARK write. -/
theorem Mark.move_id {m n : Mark} {u : AxisUnit} {relative : Bool} {v : Int} (h : m.move u relative v = some n) : n.id = m.id := by
  simp only [Mark.move, Option.map_eq_some_iff] at h
  obtain ⟨target, -, rfl⟩ := h
  rw [Mark.bandCheck_id]
  unfold Mark.retarget
  cases m.kind <;> rfl

/-- A command other than DEFINE_MARK, said as what it does to the records. -/
theorem CommandEffect.recordsFrom {s t : State} {i : Instr} {R : Mark → Mark → Prop} (hR : CommandMoves i R) (ht : CommandEffect s i t)
    (hi : i ≠ .defineMark) (h : s.Lawful) : s.recordsFrom R t := by
  cases ht
  case run =>
    have entered : s.recordsFrom R ((s.setRnc { s.rnc with state := .run }).report (.runState .run .host s.tick)) :=
      .of_marks hR.refl rfl
    exact entered.trans hR.trans (.catchUpEach hR.refl hR.trans (hR.catchUp rfl) _ h.ids)
  case defineMark => exact absurd rfl hi
  case deleteMark id =>
    intro other n hn
    have hn : findMark (eraseRecord s.mks.marks id) other = some n := hn
    rw [findMark_eraseRecord] at hn
    split at hn
    · cases hn
    · exact ⟨n, hn, hR.refl n⟩
  case armMarks => exact hR.armMarks (.inl rfl) _ h
  case disarmMarks => exact hR.disarmMarks _ h
  case armGroup => exact hR.armMembers (.inr (.inl rfl)) _ h
  case disarmGroup =>
    rw [State.disarmMembers, State.disarmEach_eachMark]
    exact hR.disarmMarks _ h
  case moveMark id m moved relative v hm hmove =>
    refine .putMark hR.refl h.ids (x := m) ?_ (hR.move hmove) rfl
    rw [Mark.move_id hmove, findMark_id hm]
    exact hm
  case captureNow =>
    rw [State.storeCapture_eq]
    exact .of_marks hR.refl rfl
  all_goals exact .of_marks hR.refl rfl

/-! ### Events that take no step arrival -/

/-- The band phase of an arrival (R51). -/
theorem State.recordsFrom.bandPhase {R : Mark → Mark → Prop} (hR : ∀ m, R m m) (hband : ∀ m c p, R m (Mark.bandCheck m c p)) {s t : State}
    (a : Axis) (p : Int) (ht : t.mks.marks = (s.bandPhase a p).mks.marks) : s.recordsFrom R t := by
  intro id n hn
  have hn : findMark (s.mks.marks.map fun m => if m.axis = a then m.bandCheck (s.axis a).config p else m) id = some n := by
    rwa [State.mark, ht] at hn
  rw [findMark_map] at hn
  · obtain ⟨m, hm, rfl⟩ := Option.map_eq_some_iff.mp hn
    refine ⟨m, hm, ?_⟩
    split
    · exact hband m _ p
    · exact hR m
  · intro m
    split
    · exact m.bandCheck_id _ p
    · rfl

end Sys2Proof.Machine
end

section
/-! A mark fires only in RUN, at a step arrival of its own axis that lands on its target while it is ARMED (O53). -/

namespace Sys2Proof.Machine

/-! ### Arrivals taken -/

/-- STEP_ARRIVAL goes on with the arrival in progress of the axis, or takes the next one after the arrival in progress (R49). -/
theorem State.stepArrival_cases (x : Option Nat) (a : Axis) (s : State) :
    (∃ r, s.mks.arrival = some r ∧ r.axis = a ∧ s.stepArrival x a = s.goOn x) ∨
      ((∀ r ∈ s.mks.arrival, r.axis ≠ a) ∧ s.stepArrival x a = s.settled.takeStepArrival a x) := by
  unfold State.stepArrival
  split
  · rename_i r hr
    split
    · rename_i ha
      exact .inl ⟨r, hr, ha, rfl⟩
    · rename_i ha
      refine .inr ⟨fun r' hr' => ?_, rfl⟩
      obtain rfl : r = r' := Option.some.inj (hr.symm.trans hr')
      exact ha
  · rename_i hn
    refine .inr ⟨fun r hr => ?_, by rw [State.settled_of_none hn]⟩
    rw [hn] at hr
    cases hr

/-- The arrival at the head of the axis's order is begun and goes on, or there is none of the kind STEP. -/
theorem State.takeStepArrival_cases (a : Axis) (x : Option Nat) (s : State) :
    (∃ p d t rest, (s.axis a).arrivals = .step p d t :: rest ∧
      s.takeStepArrival a x = ((s.setAxis a { s.axis a with arrivals := rest }).beginStepArrival a p d t).goOn x) ∨
      s.takeStepArrival a x = s := by
  unfold State.takeStepArrival
  split
  · rename_i p d t rest hrest
    exact .inl ⟨p, d, t, rest, hrest, rfl⟩
  · exact .inr rfl

theorem State.beginStepArrival_marks (s : State) (a : Axis) (p : Int) (d : Direction) (t : Tick) :
    (s.beginStepArrival a p d t).mks.marks = (s.bandPhase a p).mks.marks := by
  unfold State.beginStepArrival
  dsimp only
  split <;> rfl

/-- The record of a step arrival just begun (R50 to R52, R64). -/
theorem State.beginStepArrival_arrival (s : State) (a : Axis) (p : Int) (d : Direction) (t : Tick) :
    (s.beginStepArrival a p d t).mks.arrival = some
      { axis := a, arrival := .step p d t, run := s.rnc.state
        fireList := if s.rnc.state = .run then (s.bandPhase a p).selectPhase a p d else []
        firing := none, disarmed := [], reads := p } := by
  unfold State.beginStepArrival
  cases h : s.rnc.state <;> rfl

/-! ### The count and the last tick of firing -/

/-- The same mark of the same axis, with the same fire count and last fire tick. -/
structure SameFirings (m n : Mark) : Prop where
  id : n.id = m.id
  axis : n.axis = m.axis
  fires : n.fires = m.fires
  lastFire : n.lastFire = m.lastFire

/-- Mark `m.id` fires at the arrival in progress at `s`, in a turn that has not begun. -/
def FiredAt (s : State) (m n : Mark) : Prop :=
  ∃ r ∈ s.mks.arrival, m.id ∈ r.fireList ∧ m.id ∉ r.disarmed ∧ ∃ p d t, r.arrival = .step p d t ∧ n.lastFire = some t

/-- The same mark, which may have fired at the arrival in progress at `s`. -/
structure FireStep (s : State) (m n : Mark) : Prop where
  id : n.id = m.id
  axis : n.axis = m.axis
  fires : (n.fires = m.fires ∧ n.lastFire = m.lastFire) ∨ FiredAt s m n

theorem SameFirings.refl (m : Mark) : SameFirings m m := ⟨rfl, rfl, rfl, rfl⟩

theorem SameFirings.trans {m x n : Mark} (h : SameFirings m x) (k : SameFirings x n) : SameFirings m n :=
  ⟨k.id.trans h.id, k.axis.trans h.axis, k.fires.trans h.fires, k.lastFire.trans h.lastFire⟩

theorem SameFirings.fireStep {s : State} {m n : Mark} (h : SameFirings m n) : FireStep s m n :=
  ⟨h.id, h.axis, .inl ⟨h.fires, h.lastFire⟩⟩

theorem FireStep.trans_same {s : State} {m x n : Mark} (h : FireStep s m x) (k : SameFirings x n) : FireStep s m n where
  id := k.id.trans h.id
  axis := k.axis.trans h.axis
  fires := by
    rcases h.fires with ⟨hf, hl⟩ | ⟨r, hr, hid, hd, p, d, t, hx, ht⟩
    · exact .inl ⟨k.fires.trans hf, k.lastFire.trans hl⟩
    · exact .inr ⟨r, hr, hid, hd, p, d, t, hx, k.lastFire.trans ht⟩

theorem Mark.arm_sameFirings (m : Mark) (c : AxisConfig) (p : Int) : SameFirings m (m.arm c p) := by
  unfold Mark.arm
  cases m.kind <;> exact ⟨rfl, rfl, rfl, rfl⟩

theorem Mark.fired_sameFirings (m : Mark) (c : AxisConfig) : SameFirings m (m.fired c) := by
  unfold Mark.fired
  split
  · exact ⟨rfl, rfl, rfl, rfl⟩
  · exact ⟨rfl, rfl, rfl, rfl⟩
  · dsimp only
    split <;> exact ⟨rfl, rfl, rfl, rfl⟩

theorem Mark.bandCheck_sameFirings (m : Mark) (c : AxisConfig) (p : Int) : SameFirings m (m.bandCheck c p) := by
  rcases m.bandCheck_cases c p with h | ⟨h, -⟩ <;> rw [h] <;> exact ⟨rfl, rfl, rfl, rfl⟩

theorem Mark.catchUp_sameFirings {m n : Mark} {c : AxisConfig} {p : Int} {k : Nat} (h : m.catchUp c p = some (n, k)) :
    SameFirings m n := by
  refine ⟨Mark.catchUp_id h, Mark.catchUp_axis h, Mark.catchUp_fires h, ?_⟩
  unfold Mark.catchUp at h
  split at h
  · split at h
    · dsimp only at h
      split at h
      · split at h
        · cases h; rfl
        · split at h <;> cases h <;> rfl
      · split at h <;> cases h <;> rfl
    · cases h
  · cases h
  · cases h

theorem Mark.move_sameFirings {m n : Mark} {u : AxisUnit} {relative : Bool} {v : Int} (h : m.move u relative v = some n) :
    SameFirings m n := by
  simp only [Mark.move, Option.map_eq_some_iff] at h
  obtain ⟨target, -, rfl⟩ := h
  have moved : SameFirings m (m.retarget target) := by
    unfold Mark.retarget
    cases m.kind <;> exact ⟨rfl, rfl, rfl, rfl⟩
  exact moved.trans (Mark.bandCheck_sameFirings _ _ _)

/-- No command fires a mark. -/
theorem sameFirings_commands (i : Instr) : CommandMoves i SameFirings where
  refl := SameFirings.refl
  trans h k := h.trans k
  arm _ m c p := m.arm_sameFirings c p
  disarmed _ := ⟨rfl, rfl, rfl, rfl⟩
  catchUp _ := Mark.catchUp_sameFirings
  move := Mark.move_sameFirings

/-- Within an arrival a mark is counted only at its own turn (R53, R54). -/
theorem fireStep_moves (s : State) : MarkMoves s (fun _ => FireStep s) where
  onward _ h := h
  arm c p _ _ _ h := h.trans_same (Mark.arm_sameFirings _ c p)
  disarmed h := h.trans_same ⟨rfl, rfl, rfl, rfl⟩
  fired c _ _ _ h := h.trans_same (Mark.fired_sameFirings _ c)
  counted {u r m x p d t} ha hr hx hfire hd h := by
    obtain ⟨r0, hr0, onward⟩ := ha r hr
    have hid := h.id
    rw [hid] at hfire hd
    exact ⟨hid, h.axis, .inr ⟨r0, hr0, onward.fireList hfire, fun hm => hd (onward.disarmed hm), p, d, t, onward.arrival ▸ hx, rfl⟩⟩

theorem fireStep_stages {s : State} (h : s.Lawful) : Tracked s (fun _ => FireStep s) s :=
  .start h fun m => (SameFirings.refl m).fireStep

/-- A mark that fires at the arrival in progress was selected by it: it is ARMED on the target, in RUN (R50 to R53, R64). -/
theorem FiredAt.selected {s : State} (h : s.Lawful) {m n : Mark} (hm : s.mark m.id = some m) (hf : FiredAt s m n) :
    s.rnc.state = .run ∧ m.state = .armed ∧ ∃ r ∈ s.mks.arrival, r.axis = m.axis ∧ m.id ∈ r.fireList ∧ m.id ∉ r.disarmed ∧
      ∃ d t, r.arrival = .step m.target d t ∧ n.lastFire = some t := by
  obtain ⟨r, hr, hfire, hd, p, d, t, hx, hlast⟩ := hf
  have law := h.turn r hr
  obtain ⟨x, hxm, hsel⟩ := law.mark_of_left (List.mem_append_right _ hfire) hd
  obtain rfl : m = x := Option.some.inj (hm.symm.trans hxm)
  obtain ⟨p', d', t', hx', haxis, harmed, rfl, -⟩ := (Arrival.selects_iff _ _ _).mp hsel
  rw [hx'] at hx
  cases hx
  refine ⟨?_, harmed, r, hr, haxis.symm, hfire, hd, d, t, hx', hlast⟩
  cases hst : s.rnc.state with
  | run => rfl
  | hold =>
    have := (law.hold (law.run.trans hst)).1
    rw [this] at hfire
    cases hfire

/-- A band check arms no mark that stands on its target: its distance is 0, and a band is at least 1 (R35). -/
theorem Mark.bandCheck_at_target {m : Mark} {c : AxisConfig} (h : m.kindLawful = true) (ha : (m.bandCheck c m.target).state = .armed) :
    m.state = .armed := by
  rcases m.bandCheck_cases c m.target with he | ⟨-, -, b, hk, hb⟩
  · rwa [he] at ha
  · rw [AxisConfig.distance_self] at hb
    simp only [Mark.kindLawful, hk, decide_eq_true_eq] at h
    omega

@[simp] theorem Mark.bandCheck_target (m : Mark) (c : AxisConfig) (p : Int) : (m.bandCheck c p).target = m.target := by
  rcases m.bandCheck_cases c p with h | ⟨h, -⟩ <;> rw [h]

/-- A mark that fires at an arrival just begun was ARMED on its position before the band phase. -/
theorem FiredAt.begun {w : State} (h : w.Lawful) {a : Axis} {p : Int} {d : Direction} {t : Tick} {m n : Mark}
    (hf : FiredAt (w.beginStepArrival a p d t) m n) :
    w.rnc.state = .run ∧ n.lastFire = some t ∧ ∃ x, w.mark m.id = some x ∧ x.state = .armed ∧ x.axis = a ∧ x.target = p := by
  obtain ⟨r, hr, hfire, -, p', d', t', hx, hlast⟩ := hf
  rw [State.beginStepArrival_arrival] at hr
  cases hr
  cases hx
  dsimp only at hfire
  split at hfire
  · rename_i hrun
    refine ⟨hrun, hlast, ?_⟩
    obtain ⟨y, hy, hid⟩ := List.mem_map.mp hfire
    obtain ⟨hmem, hsel⟩ := List.mem_filter.mp hy
    simp only [Bool.and_eq_true, decide_eq_true_eq] at hsel
    obtain ⟨⟨haxis, harmed, htarget⟩, -⟩ := hsel
    obtain ⟨x, hxm, rfl⟩ := List.mem_map.mp hmem
    have hax : x.axis = a := by
      split at haxis
      · assumption
      · exact haxis
    rw [if_pos hax] at hid harmed htarget
    rw [Mark.bandCheck_id] at hid
    rw [Mark.bandCheck_target] at htarget
    subst htarget
    exact ⟨x, (findMark_eq_some h.ids).mpr ⟨hxm, hid⟩, Mark.bandCheck_at_target (h.records x hxm).2.1 harmed, hax, rfl⟩
  · cases hfire

/-! ### Events -/

/-- The states with the mark table, the arrival in progress and the run state of `s`. -/
structure SameScheduler (s u : State) : Prop where
  lawful : u.Lawful
  mks : u.mks = s.mks
  rnc : u.rnc = s.rnc

theorem FiredAt.of_same {s u : State} (h : u.mks = s.mks) {m n : Mark} (hf : FiredAt u m n) : FiredAt s m n := by
  unfold FiredAt at hf ⊢
  rwa [h] at hf

/-- An event that takes no step arrival, said as what it does to the records: it reaches them as they are, or after the arrival in progress. -/
theorem EventEffect.recordsFrom {s t : State} {i : Instr} {R : Mark → Mark → Prop} (hR : CommandMoves i R)
    (hband : ∀ m c p, R m (Mark.bandCheck m c p)) (ht : EventEffect s i t) (hi : i ≠ .defineMark) (hs : ∀ a, i ≠ .stepArrival a)
    (h : s.Lawful) : ∃ u, SameScheduler s u ∧ (u.recordsFrom R t ∨ u.settled.recordsFrom R t) := by
  have here : ∀ t : State, t.mks.marks = s.mks.marks → ∃ u, SameScheduler s u ∧ (u.recordsFrom R t ∨ u.settled.recordsFrom R t) :=
    fun t hm => ⟨s, ⟨h, rfl, rfl⟩, .inl (.of_marks hR.refl hm)⟩
  have lost : ∀ (u : State) (c : HoldCause), SameScheduler s u →
      ∃ u', SameScheduler s u' ∧ (u'.recordsFrom R (u.loseSession c) ∨ u'.settled.recordsFrom R (u.loseSession c)) :=
    fun u c hu => ⟨u, hu, .inr (.of_marks hR.refl (by rw [State.loseSession_eq]))⟩
  cases ht
  case hardReset => exact ⟨s, ⟨h, rfl, rfl⟩, .inl fun id n hn => by cases hn⟩
  case commandReset => exact ⟨s, ⟨h, rfl, rfl⟩, .inl fun id n hn => by cases hn⟩
  case filteredSample a la lb lz => exact here _ (by rw [(s.filteredSample_motion a la lb lz).frame])
  case pinSample a la lb lz => exact here _ (by rw [(s.pinSample_motion a la lb lz).frame])
  case timeCount a => exact here _ (by rw [(s.timeCount_motion a).frame])
  case strobeEdge n => exact here _ (by rw [s.strobeEdge_motion n])
  case qualified n => exact here _ (by rw [s.qualified_motion n])
  case stepArrival a => exact absurd rfl (hs _)
  case jumpArrival a =>
    refine ⟨s, ⟨h, rfl, rfl⟩, .inr ?_⟩
    unfold State.jumpArrival
    dsimp only
    split
    · rename_i p t rest _
      have popped : s.settled.recordsFrom R (s.settled.setAxis a { s.settled.axis a with arrivals := rest }) := .of_marks hR.refl rfl
      exact popped.trans hR.trans (.bandPhase hR.refl hband a p rfl)
    · exact .of_marks hR.refl rfl
  case strobeGroupArm =>
    refine ⟨s, ⟨h, rfl, rfl⟩, .inr ?_⟩
    unfold State.strobeGroupArm
    dsimp only
    split
    · exact .of_marks hR.refl rfl
    · rename_i g rest _
      have popped : s.settled.recordsFrom R (s.settled.setMks { s.settled.mks with groupArms := rest }) := .of_marks hR.refl rfl
      have law : (s.settled.setMks { s.settled.mks with groupArms := rest }).Lawful := { h.settled with }
      split
      · exact popped.trans hR.trans (hR.armMembers (.inr (.inr rfl)) g law)
      · exact popped
  case signalLoss k _ _ => exact lost _ _ ⟨{ h with }, rfl, rfl⟩
  case silenceLoss => exact lost _ _ ⟨h, rfl, rfl⟩
  case character value mark =>
    obtain ⟨q, c, he⟩ := s.character_eq value mark
    exact here _ (by rw [he]; rfl)
  case executed ht =>
    have dropped : SameScheduler s s.dropEntry := ⟨{ h with }, rfl, rfl⟩
    refine ⟨s.dropEntry, dropped, ?_⟩
    have done := ht.recordsFrom hR hi (dropped.lawful.executedOn i)
    unfold State.executedOn at done
    split at done
    · exact .inr done
    · exact .inl done
  all_goals exact here _ rfl

/-- DEFINE_MARK replaces one record, after the arrival in progress, or reaches none (R38, R39). -/
theorem EventEffect.defineMark {s t : State} (ht : EventEffect s .defineMark t) (h : s.Lawful) :
    ∃ u, SameScheduler s u ∧ (t.mks.marks = u.mks.marks ∨ t.mks.marks = u.settled.mks.marks ∨
      ∃ m f id config, MarkFields.mark f id config = some m ∧ t.mks.marks = putRecord m u.settled.mks.marks) := by
  cases ht
  case absent => exact ⟨s, ⟨h, rfl, rfl⟩, .inl rfl⟩
  case answered => exact ⟨s.dropEntry, ⟨{ h with }, rfl, rfl⟩, .inl rfl⟩
  case executed ht =>
    refine ⟨s.dropEntry, ⟨{ h with }, rfl, rfl⟩, .inr ?_⟩
    cases ht
    case same => exact .inl rfl
    case defineMark m f id config _ hm _ => exact .inr ⟨m, f, id, config, hm, rfl⟩

/-- The records after an arrival in progress has been taken to its end, or before. -/
theorem SameScheduler.fireStep {s u t : State} (hu : SameScheduler s u) (h : u.recordsFrom SameFirings t ∨ u.settled.recordsFrom SameFirings t) :
    s.recordsFrom (FireStep s) t := by
  have settled : ∀ (id : MarkId) (x : Mark), u.settled.mark id = some x → ∃ m, u.mark id = some m ∧ FireStep u m x :=
    (State.settled_keeps (Tracked.stage (fireStep_moves u)) (fireStep_stages hu.lawful)).records
  have same : ∀ m x, FireStep u m x → FireStep s m x := fun m x hx => ⟨hx.id, hx.axis, hx.fires.imp id (FiredAt.of_same hu.mks)⟩
  have hmark : ∀ id, s.mark id = u.mark id := fun id => by rw [State.mark, State.mark, hu.mks]
  intro id n hn
  rw [hmark]
  rcases h with h | h
  · obtain ⟨m, hm, hmn⟩ := h id n hn
    exact ⟨m, hm, hmn.fireStep⟩
  · obtain ⟨x, hx, hxn⟩ := h id n hn
    obtain ⟨m, hm, hmx⟩ := settled id x hx
    exact ⟨m, hm, (same m x hmx).trans_same hxn⟩

/-- What the firing of a mark is read off: it was ARMED on the arrival's position, either at the arrival in progress or at the one taken now. -/
theorem stepArrival_fireStep {s : State} (h : s.Lawful) (x : Option Nat) (a : Axis) {m n : Mark} (hm : s.mark m.id = some m)
    (hn : (s.stepArrival x a).mark m.id = some n) :
    FireStep s m n ∨ (s.rnc.state = .run ∧ (∀ r ∈ s.mks.arrival, r.axis ≠ a) ∧
      ∃ y d t rest, s.settled.mark m.id = some y ∧ y.state = .armed ∧ y.axis = a ∧ m.axis = a ∧
        (s.settled.axis a).arrivals = .step y.target d t :: rest ∧ n.lastFire = some t) := by
  have settled := State.settled_keeps (Tracked.stage (fireStep_moves s)) (fireStep_stages h)
  rcases s.stepArrival_cases x a with ⟨r, -, -, he⟩ | ⟨hother, he⟩ <;> rw [he] at hn
  · obtain ⟨m', hm', hmn⟩ := (State.goOn_keeps (Tracked.stage (fireStep_moves s)) x (fireStep_stages h)).records _ n hn
    obtain rfl : m = m' := Option.some.inj (hm.symm.trans hm')
    exact .inl hmn
  rcases s.settled.takeStepArrival_cases a x with ⟨p, d, t, rest, hrest, he⟩ | he <;> rw [he] at hn
  · have popped : (s.settled.setAxis a { s.settled.axis a with arrivals := rest }).Lawful := h.settled.setAxis (.of_same rfl rfl)
    have begun := popped.beginStepArrival h.settled_idle a p d t
    obtain ⟨z, hz, hzn⟩ := (State.goOn_keeps (Tracked.stage (fireStep_moves _)) x (fireStep_stages begun)).records _ n hn
    have band : s.settled.recordsFrom SameFirings
        ((s.settled.setAxis a { s.settled.axis a with arrivals := rest }).beginStepArrival a p d t) :=
      (State.recordsFrom.of_marks (t := s.settled.setAxis a { s.settled.axis a with arrivals := rest }) SameFirings.refl rfl).trans
        (fun h k => h.trans k) (.bandPhase SameFirings.refl Mark.bandCheck_sameFirings a p (State.beginStepArrival_marks _ a p d t))
    obtain ⟨y, hy, hyz⟩ := band _ z hz
    obtain ⟨m', hm', hmy⟩ := settled.records _ y hy
    obtain rfl : m = m' := Option.some.inj (hm.symm.trans hm')
    rcases hzn.fires with ⟨hf, hl⟩ | hfired
    · exact .inl (hmy.trans_same (hyz.trans ⟨hzn.id, hzn.axis, hf, hl⟩))
    · obtain ⟨hrun, hlast, y', hy', harmed, haxis, rfl⟩ := FiredAt.begun popped hfired
      have hid : z.id = m.id := findMark_id hz
      rw [hid] at hy'
      obtain rfl : y = y' := Option.some.inj (hy.symm.trans hy')
      obtain ⟨⟨-, -, -, -, hrnc, -⟩, -⟩ := s.settled_frame
      have hrun : s.settled.rnc.state = .run := hrun
      refine .inr ⟨by rwa [hrnc] at hrun, hother, y, d, t, rest, hy, harmed, haxis, ?_, hrest, hlast⟩
      rw [← haxis, hmy.axis]
  · obtain ⟨m', hm', hmn⟩ := settled.records _ n hn
    obtain rfl : m = m' := Option.some.inj (hm.symm.trans hm')
    exact .inl hmn

theorem MarkFields.mark_fresh {f : MarkFields} {id : MarkId} {config : Axis → AxisConfig} {m : Mark} (h : f.mark id config = some m) :
    m.fires = 0 ∧ m.lastFire = none :=
  (MarkFields.mark_fires h).2.2

/-- Settles O53: an event that takes no step arrival reaches the fire counts by taking the arrival in progress to its end, and a step arrival by
going on with it, or by taking its own; each firing was selected. -/
theorem marksFireOnlyAtStepArrivalsInRun : Obligations.MarksFireOnlyAtStepArrivalsInRun := by
  intro i s t m n hexec ha hms hr hm hn hne
  have h : s.Lawful := State.lawful_iff.mpr ⟨ha, hms, hr⟩
  have ht := exec_effect hexec
  have fired : FireStep s m n → s.rnc.state = .run ∧ m.state = .armed ∧ ∃ r ∈ s.mks.arrival, r.axis = m.axis ∧ m.id ∈ r.fireList ∧
      m.id ∉ r.disarmed ∧ ∃ d u, r.arrival = .step m.target d u ∧ n.lastFire = some u := by
    intro hstep
    rcases hstep.fires with ⟨hf, hl⟩ | hf
    · exact absurd hne (by simp [hf, hl])
    · exact hf.selected h hm
  have found : s.recordsFrom (FireStep s) t → FireStep s m n := by
    intro hfrom
    obtain ⟨m', hm', hmn⟩ := hfrom _ n hn
    obtain rfl : m = m' := Option.some.inj (hm.symm.trans hm')
    exact hmn
  by_cases hdef : i = .defineMark
  · subst hdef
    obtain ⟨u, hu, hmarks⟩ := ht.defineMark h
    rcases hmarks with hmarks | hmarks | ⟨y, f, id, config, hy, hmarks⟩
    · exact .inr (.inr (fired (found (hu.fireStep (.inl (.of_marks SameFirings.refl hmarks))))))
    · exact .inr (.inr (fired (found (hu.fireStep (.inr (.of_marks SameFirings.refl hmarks))))))
    · rw [State.mark, hmarks, findMark_putRecord hu.lawful.settled.ids] at hn
      split at hn
      · cases hn
        exact .inl ⟨rfl, MarkFields.mark_fresh hy⟩
      · have kept : s.recordsFrom (FireStep s) u.settled := hu.fireStep (.inr (.of_marks SameFirings.refl rfl))
        obtain ⟨m', hm', hmn⟩ := kept _ n hn
        obtain rfl : m = m' := Option.some.inj (hm.symm.trans hm')
        exact .inr (.inr (fired hmn))
  by_cases hstep : ∃ a, i = .stepArrival a
  · obtain ⟨a, rfl⟩ := hstep
    cases ht
    case absent => exact .inr (.inr (fired (found (.of_marks (fun m => (SameFirings.refl m).fireStep) rfl))))
    case stepArrival a =>
      have used : (s.setPauses s.pauses.tail).Lawful := { h with }
      rcases stepArrival_fireStep used _ a hm hn with hmn | ⟨hrun, hother, y, d, u, rest, hy, harmed, hyaxis, rfl, harrivals, hlast⟩
      · exact .inr (.inr (fired ⟨hmn.id, hmn.axis, hmn.fires⟩))
      · exact .inr (.inl ⟨rfl, hrun, hother, _, y, d, u, rest, rfl, hy, harmed, hyaxis, harrivals, hlast⟩)
    case answered => exact .inr (.inr (fired (found (.of_marks (fun m => (SameFirings.refl m).fireStep) rfl))))
    case executed ht =>
      cases ht
      exact .inr (.inr (fired (found (.of_marks (fun m => (SameFirings.refl m).fireStep) rfl))))
  · obtain ⟨u, hu, hfrom⟩ := ht.recordsFrom (sameFirings_commands i) Mark.bandCheck_sameFirings hdef (fun a ha => hstep ⟨a, ha⟩) h
    exact .inr (.inr (fired (found (hu.fireStep hfrom))))

end Sys2Proof.Machine
end

section
/-! The remaining count of a PITCH mark goes down, or back to its base count (O54). -/

namespace Sys2Proof.Machine

/-! ### The counts of one record -/

/-- The base count stays, and the remaining count does not rise. -/
structure CountsDown (m n : Mark) : Prop where
  base : n.kind.baseCount = m.kind.baseCount
  down : ∀ b, n.kind.remaining = some b → ∃ a, m.kind.remaining = some a ∧ b ≤ a

/-- The remaining count stands at the base count. -/
def Mark.counting (n : Mark) : Prop := n.kind.remaining = n.kind.baseCount

/-- The counts as they were, or the remaining count back at the base count. -/
structure CountsReset (m n : Mark) : Prop where
  base : n.kind.baseCount = m.kind.baseCount
  reset : n.kind.remaining = m.kind.remaining ∨ n.counting

/-- The remaining count does not rise above what it was, or does not rise above the base count. -/
structure CountsWithin (m n : Mark) : Prop where
  base : n.kind.baseCount = m.kind.baseCount
  within : ∀ b, n.kind.remaining = some b →
    (∃ a, m.kind.remaining = some a ∧ b ≤ a) ∨ ∃ base, n.kind.baseCount = some base ∧ b ≤ base

theorem CountsDown.of_kind {m n : Mark} (h : n.kind = m.kind) : CountsDown m n := by
  refine ⟨by rw [h], fun b hb => ⟨b, ?_, le_refl b⟩⟩
  rwa [h] at hb

theorem CountsReset.of_kind {m n : Mark} (h : n.kind = m.kind) : CountsReset m n := ⟨by rw [h], .inl (by rw [h])⟩

theorem CountsDown.trans {m x n : Mark} (h : CountsDown m x) (k : CountsDown x n) : CountsDown m n := by
  refine ⟨k.base.trans h.base, fun b hb => ?_⟩
  obtain ⟨c, hc, hbc⟩ := k.down b hb
  obtain ⟨a, ha, hca⟩ := h.down c hc
  exact ⟨a, ha, hbc.trans hca⟩

theorem CountsReset.trans {m x n : Mark} (h : CountsReset m x) (k : CountsReset x n) : CountsReset m n := by
  refine ⟨k.base.trans h.base, ?_⟩
  rcases k.reset with hk | hk
  · rcases h.reset with hh | hh
    · exact .inl (hk.trans hh)
    · exact .inr (hk.trans (hh.trans k.base.symm))
  · exact .inr hk

theorem CountsWithin.trans {m x n : Mark} (h : CountsWithin m x) (k : CountsWithin x n) : CountsWithin m n := by
  refine ⟨k.base.trans h.base, fun b hb => ?_⟩
  rcases k.within b hb with ⟨c, hc, hbc⟩ | hbase
  · rcases h.within c hc with ⟨a, ha, hca⟩ | ⟨base, hbase, hcb⟩
    · exact .inl ⟨a, ha, hbc.trans hca⟩
    · exact .inr ⟨base, k.base.trans hbase, hbc.trans hcb⟩
  · exact .inr hbase

theorem CountsDown.within {m n : Mark} (h : CountsDown m n) : CountsWithin m n := ⟨h.base, fun b hb => .inl (h.down b hb)⟩

theorem CountsReset.within {m n : Mark} (h : CountsReset m n) : CountsWithin m n := by
  refine ⟨h.base, fun b hb => ?_⟩
  rcases h.reset with hr | hr
  · exact .inl ⟨b, hr.symm.trans hb, le_refl b⟩
  · exact .inr ⟨b, hr.symm.trans hb, le_refl b⟩

/-! ### What changes the counts -/

/-- Arming sets the remaining count to the base count (R34, R36). -/
theorem Mark.arm_counting (m : Mark) (c : AxisConfig) (p : Int) : (m.arm c p).counting := by
  unfold Mark.arm Mark.counting
  cases m.kind <;> rfl

theorem Mark.arm_baseCount (m : Mark) (c : AxisConfig) (p : Int) : (m.arm c p).kind.baseCount = m.kind.baseCount := by
  unfold Mark.arm
  cases m.kind <;> simp [MarkKind.baseCount]

/-- Firing takes one from the remaining count (R57). -/
theorem Mark.fired_countsDown (m : Mark) (c : AxisConfig) : CountsDown m (m.fired c) := by
  unfold Mark.fired
  split
  · exact .of_kind rfl
  · exact .of_kind rfl
  · rename_i step base remaining hk
    have less : ∀ n : Mark, n.kind = .pitch step base (remaining.map (· - 1)) → CountsDown m n := fun n hn => by
      refine ⟨by rw [hn, hk]; rfl, fun b hb => ?_⟩
      rw [hn] at hb
      obtain ⟨a, ha, rfl⟩ := Option.map_eq_some_iff.mp hb
      exact ⟨a, by rw [hk]; exact ha, Nat.sub_le a 1⟩
    dsimp only
    split
    · exact less _ rfl
    · exact less _ rfl

theorem Mark.bandCheck_kind (m : Mark) (c : AxisConfig) (p : Int) : (m.bandCheck c p).kind = m.kind := by
  rcases m.bandCheck_cases c p with h | ⟨h, -⟩ <;> rw [h]

theorem Mark.move_kind {m n : Mark} {u : AxisUnit} {relative : Bool} {v : Int} (h : m.move u relative v = some n) : n.kind = m.kind := by
  simp only [Mark.move, Option.map_eq_some_iff] at h
  obtain ⟨target, -, rfl⟩ := h
  rw [Mark.bandCheck_kind]
  unfold Mark.retarget
  cases m.kind <;> simp

/-- The catch-up takes the skipped targets from the remaining count (R66). -/
theorem Mark.catchUp_countsDown {m n : Mark} {c : AxisConfig} {p : Int} {k : Nat} (h : m.catchUp c p = some (n, k)) :
    CountsDown m n := by
  unfold Mark.catchUp at h
  split at h
  · rename_i step base remaining hk
    have less : ∀ (x : Mark) (r b : Nat), remaining = some r → b ≤ r → x.kind = .pitch step base (some b) → CountsDown m x := by
      intro x r b hr hb hx
      refine ⟨by rw [hx, hk]; rfl, fun b' hb' => ?_⟩
      rw [hx] at hb'
      cases hb'
      exact ⟨r, by rw [hk, hr]; rfl, hb⟩
    split at h
    · dsimp only at h
      split at h
      · split at h
        · cases h
          exact less _ _ 0 rfl (Nat.zero_le _) rfl
        · split at h <;> cases h <;> exact less _ _ _ rfl (Nat.sub_le _ _) rfl
      · split at h <;> cases h <;> exact .of_kind rfl
    · cases h
  · cases h
  · cases h

/-! ### Commands and arrivals -/

/-- A command that cannot arm does not raise a count. -/
theorem countsDown_commands {i : Instr} (hi : ¬ (i = .armMarks ∨ i = .armGroup ∨ i = .strobeGroupArm)) : CommandMoves i CountsDown where
  refl _ := .of_kind rfl
  trans h k := h.trans k
  arm ha := absurd ha hi
  disarmed _ := .of_kind rfl
  catchUp _ := Mark.catchUp_countsDown
  move h := .of_kind (Mark.move_kind h)

/-- A command that arms sets counts back, and lowers none. -/
theorem countsReset_commands {i : Instr} (hi : i ≠ .run) : CommandMoves i CountsReset where
  refl _ := .of_kind rfl
  trans h k := h.trans k
  arm _ m c p := ⟨m.arm_baseCount c p, .inr (m.arm_counting c p)⟩
  disarmed _ := .of_kind rfl
  catchUp hr := absurd hr hi
  move h := .of_kind (Mark.move_kind h)

theorem countsWithin_commands (i : Instr) : CommandMoves i CountsWithin where
  refl _ := (CountsDown.of_kind rfl).within
  trans h k := h.trans k
  arm _ m c p := CountsReset.within ⟨m.arm_baseCount c p, .inr (m.arm_counting c p)⟩
  disarmed m := CountsDown.within (n := m.disarmed) (.of_kind rfl)
  catchUp _ _ _ _ _ _ h := (Mark.catchUp_countsDown h).within
  move h := (CountsDown.of_kind (Mark.move_kind h)).within

theorem countsWithin_moves (s : State) : MarkMoves s (fun _ => CountsWithin) where
  onward _ h := h
  arm c p _ _ _ h := h.trans (CountsReset.within ⟨Mark.arm_baseCount _ c p, .inr (Mark.arm_counting _ c p)⟩)
  disarmed {_ _ x} h := h.trans (CountsDown.within (n := x.disarmed) (.of_kind rfl))
  fired c _ _ _ h := h.trans (Mark.fired_countsDown _ c).within
  counted {_ _ _ x _ _ t} _ _ _ _ _ h := h.trans (CountsDown.within (n := x.counted t) (.of_kind rfl))

/-- The turn of mark `id` in the arrival in progress is over: a count it is given stays. -/
def State.turnOver (u : State) (id : MarkId) : Prop := ∀ r ∈ u.mks.arrival, id ∈ r.left → id ∈ r.disarmed

/-- Within one arrival the remaining count only goes down, or stands at the base count once the mark's turn is over. -/
structure CountsInTurn (u : State) (m n : Mark) : Prop where
  base : n.kind.baseCount = m.kind.baseCount
  counts : CountsDown m n ∨ (n.counting ∧ u.turnOver n.id)

theorem State.turnOver.onward {u v : State} {id : MarkId} (h : u.turnOver id) (hv : u.arrivalFrom v) : v.turnOver id := by
  intro w hw hid
  obtain ⟨r, hr, onward⟩ := hv w hw
  exact onward.disarmed (h r hr (onward.left hid))

/-- A mark that can be armed is not ARMED, so its turn is over (R33, R53). -/
theorem State.Lawful.turnOver_of_idle {u : State} (h : u.Lawful) {x : Mark} (hx : u.mark x.id = some x) (hidle : x.active = false) :
    u.turnOver x.id := by
  intro r hr hid
  by_contra hd
  obtain ⟨y, hy, hsel⟩ := (h.turn r hr).mark_of_left hid hd
  obtain rfl : x = y := Option.some.inj (hx.symm.trans hy)
  obtain ⟨-, -, -, -, -, harmed, -⟩ := (Arrival.selects_iff _ _ _).mp hsel
  exact absurd (Mark.active_of_armed harmed) (by rw [hidle]; decide)

theorem CountsInTurn.of_kind {u : State} {m x n : Mark} (h : CountsInTurn u m x) (hk : n.kind = x.kind) (hid : n.id = x.id) :
    CountsInTurn u m n := by
  refine ⟨by rw [hk, h.base], h.counts.imp (fun hd => hd.trans (.of_kind hk)) fun ⟨hc, hover⟩ => ⟨?_, hid ▸ hover⟩⟩
  unfold Mark.counting at hc ⊢
  rw [hk, hc]

theorem countsInTurn_moves (s : State) : MarkMoves s CountsInTurn where
  onward ha h := ⟨h.base, h.counts.imp id fun ⟨hc, hover⟩ => ⟨hc, hover.onward ha⟩⟩
  arm c p hu hx hidle h := ⟨(Mark.arm_baseCount _ c p).trans h.base,
    .inr ⟨Mark.arm_counting _ c p, by rw [Mark.arm_id]; exact hu.turnOver_of_idle hx hidle⟩⟩
  disarmed h := h.of_kind rfl rfl
  fired {_ _ _ x} c hr hleft hd h := by
    have down := x.fired_countsDown c
    refine ⟨down.base.trans h.base, .inl ?_⟩
    rcases h.counts with hdown | ⟨-, hover⟩
    · exact hdown.trans down
    · exact absurd (hover _ hr hleft) hd
  counted _ _ _ _ _ h := h.of_kind rfl rfl

/-! ### Events -/

/-- A DEFINE_MARK record counts from its base count (R39). -/
theorem MarkFields.mark_counting {f : MarkFields} {id : MarkId} {config : Axis → AxisConfig} {m : Mark} (h : f.mark id config = some m) :
    m.counting := by
  obtain ⟨axis, qual, kind, group, report, actions, -, -, hkind, -, -, -, -, -, rfl⟩ := MarkFields.mark_eq_some.mp h
  change kind.remaining = kind.baseCount
  unfold MarkFields.markKind at hkind
  split at hkind
  · cases hkind
    rfl
  · split at hkind
    · cases hkind
      rfl
    · cases hkind
  · dsimp only at hkind
    obtain ⟨-, hkind⟩ := Option.ite_none_right_eq_some.mp hkind
    cases hkind
    rfl
  · cases hkind

theorem SameScheduler.countsWithin {s u t : State} (hu : SameScheduler s u)
    (h : u.recordsFrom CountsWithin t ∨ u.settled.recordsFrom CountsWithin t) : s.recordsFrom CountsWithin t := by
  have hmark : ∀ id, s.mark id = u.mark id := fun id => by rw [State.mark, State.mark, hu.mks]
  have settled : u.recordsFrom CountsWithin u.settled :=
    (State.settled_keeps (Tracked.stage (countsWithin_moves u)) (.start hu.lawful fun m => (CountsDown.of_kind rfl).within)).records
  have from_u : u.recordsFrom CountsWithin t := h.elim id fun h => settled.trans (fun h k => h.trans k) h
  intro id n hn
  rw [hmark]
  exact from_u id n hn

/-- The band phase of a step arrival just begun leaves the counts. -/
theorem State.recordsFrom.begun {R : Mark → Mark → Prop} (hR : ∀ m n, n.kind = m.kind → R m n) (w : State) (a : Axis)
    (rest : List Arrival) (p : Int) (d : Direction) (t : Tick) :
    w.recordsFrom R ((w.setAxis a { w.axis a with arrivals := rest }).beginStepArrival a p d t) :=
  show (w.setAxis a { w.axis a with arrivals := rest }).recordsFrom R _ from
    .bandPhase (fun m => hR m m rfl) (fun m c p => hR m _ (m.bandCheck_kind c p)) a p (State.beginStepArrival_marks _ a p d t)

theorem countsWithin_of_kind (m n : Mark) (h : n.kind = m.kind) : CountsWithin m n := (CountsDown.of_kind h).within

/-- A step arrival, in progress or not, keeps every count within its base count. -/
theorem stepArrival_countsWithin {s : State} (h : s.Lawful) (x : Option Nat) (a : Axis) :
    s.recordsFrom CountsWithin (s.stepArrival x a) := by
  have tracked : ∀ {w : State}, w.Lawful → Tracked w (fun _ => CountsWithin) w := fun hw =>
    .start hw fun m => countsWithin_of_kind m m rfl
  have settled := (State.settled_keeps (Tracked.stage (countsWithin_moves s)) (tracked h)).records
  rcases s.stepArrival_cases x a with ⟨r, -, -, he⟩ | ⟨-, he⟩ <;> rw [he]
  · exact (State.goOn_keeps (Tracked.stage (countsWithin_moves s)) x (tracked h)).records
  rcases s.settled.takeStepArrival_cases a x with ⟨p, d, t, rest, -, he⟩ | he <;> rw [he]
  · have popped : (s.settled.setAxis a { s.settled.axis a with arrivals := rest }).Lawful := h.settled.setAxis (.of_same rfl rfl)
    have fires := (State.goOn_keeps (Tracked.stage (countsWithin_moves _)) x
      (tracked (popped.beginStepArrival h.settled_idle a p d t))).records
    have band := State.recordsFrom.begun countsWithin_of_kind s.settled a rest p d t
    exact State.recordsFrom.trans (fun h k => h.trans k) settled (State.recordsFrom.trans (fun h k => h.trans k) band fires)
  · exact settled

/-- A step arrival taken with none in progress leaves each count no higher, or at the base count. -/
theorem stepArrival_counts {s : State} (h : s.Lawful) (hn : s.mks.arrival = none) (x : Option Nat) (a : Axis) :
    s.recordsFrom (fun m n => CountsDown m n ∨ n.counting) (s.stepArrival x a) := by
  have kept : ∀ m n : Mark, n.kind = m.kind → CountsDown m n ∨ n.counting := fun m n hk => .inl (.of_kind hk)
  rcases s.stepArrival_cases x a with ⟨r, hr, -⟩ | ⟨-, he⟩
  · rw [hn] at hr
    cases hr
  rw [he, State.settled_of_none hn]
  rcases s.takeStepArrival_cases a x with ⟨p, d, t, rest, -, he⟩ | he <;> rw [he]
  · have popped : (s.setAxis a { s.axis a with arrivals := rest }).Lawful := h.setAxis (.of_same rfl rfl)
    have begun := popped.beginStepArrival (h.idle hn) a p d t
    have fires := State.goOn_keeps (Tracked.stage (countsInTurn_moves _)) x
      (Tracked.start (R := CountsInTurn) begun fun m => ⟨rfl, .inl (.of_kind rfl)⟩)
    have band := State.recordsFrom.begun (R := CountsDown) (fun m n hk => .of_kind hk) s a rest p d t
    intro id n hid
    obtain ⟨y, hy, hyn⟩ := fires.records id n hid
    obtain ⟨m, hm, hmy⟩ := band id y hy
    exact ⟨m, hm, hyn.counts.imp hmy.trans fun hc => hc.1⟩
  · exact .of_marks (fun m => kept m m rfl) rfl

/-- The events after which a remaining count can be higher than before, no arrival being in progress. -/
abbrev canRaise (i : Instr) : Prop :=
  i = .defineMark ∨ i = .armMarks ∨ i = .armGroup ∨ i = .strobeGroupArm ∨ ∃ x, i = .stepArrival x

/-- A relation of the records from `s` on, read at one mark. -/
theorem State.recordsFrom.at {R : Mark → Mark → Prop} {s t : State} (h : s.recordsFrom R t) {id : MarkId} {m n : Mark}
    (hm : s.mark id = some m) (hn : t.mark id = some n) : R m n := by
  obtain ⟨m', hm', hmn⟩ := h id n hn
  obtain rfl : m = m' := Option.some.inj (hm.symm.trans hm')
  exact hmn

/-- A STEP_ARRIVAL event that is not the taking of an arrival touches no record. -/
theorem EventEffect.stepArrival_marks {s t : State} {n : Nat} (ht : EventEffect s (.stepArrival n) t) :
    t.mks.marks = s.mks.marks ∨ ∃ a : Axis, t = (s.setPauses s.pauses.tail).stepArrival s.pauses.head?.join a := by
  cases ht
  case stepArrival a => exact .inr ⟨a, rfl⟩
  case executed ht =>
    cases ht
    exact .inl rfl
  all_goals exact .inl rfl

/-- Every event keeps each count within what it was or its base count, or has defined the mark anew. -/
theorem EventEffect.countsWithin {s t : State} {i : Instr} (ht : EventEffect s i t) (h : s.Lawful) {id : MarkId} {m n : Mark}
    (hm : s.mark id = some m) (hn : t.mark id = some n) : CountsWithin m n ∨ n.counting := by
  have same : ∀ m, CountsWithin m m := fun m => countsWithin_of_kind m m rfl
  by_cases hdef : i = .defineMark
  · subst hdef
    obtain ⟨u, hu, hmarks⟩ := ht.defineMark h
    rcases hmarks with hmarks | hmarks | ⟨y, f, other, config, hy, hmarks⟩
    · exact .inl ((hu.countsWithin (.inl (.of_marks same hmarks))).at hm hn)
    · exact .inl ((hu.countsWithin (.inr (.of_marks same hmarks))).at hm hn)
    · rw [State.mark, hmarks, findMark_putRecord hu.lawful.settled.ids] at hn
      split at hn
      · cases hn
        exact .inr (MarkFields.mark_counting hy)
      · exact .inl ((hu.countsWithin (t := u.settled) (.inr (.of_marks same rfl))).at hm hn)
  by_cases hstep : ∃ a, i = .stepArrival a
  · obtain ⟨a, rfl⟩ := hstep
    rcases ht.stepArrival_marks with hmarks | ⟨a, rfl⟩
    · exact .inl ((State.recordsFrom.of_marks same hmarks).at hm hn)
    · have used : (s.setPauses s.pauses.tail).Lawful := { h with }
      exact .inl ((stepArrival_countsWithin used _ a).at hm hn)
  · obtain ⟨u, hu, hfrom⟩ := ht.recordsFrom (countsWithin_commands i) (fun m c p => countsWithin_of_kind m _ (m.bandCheck_kind c p)) hdef
      (fun a ha => hstep ⟨a, ha⟩) h
    exact .inl ((hu.countsWithin hfrom).at hm hn)

/-- With no arrival in progress a count rises only to the base count, at the events that define or arm. -/
theorem EventEffect.counts {s t : State} {i : Instr} (ht : EventEffect s i t) (h : s.Lawful) (hidle : s.mks.arrival = none) {id : MarkId}
    {m n : Mark} (hm : s.mark id = some m) (hn : t.mark id = some n) : CountsDown m n ∨ (n.counting ∧ canRaise i) := by
  have unsettled : ∀ {u : State}, SameScheduler s u → u.settled = u := fun hu => State.settled_of_none (by rw [hu.mks, hidle])
  have hmark : ∀ {u : State}, SameScheduler s u → u.mark id = some m := fun hu => by rw [State.mark, hu.mks]; exact hm
  by_cases hdef : i = .defineMark
  · subst hdef
    obtain ⟨u, hu, hmarks⟩ := ht.defineMark h
    rw [unsettled hu, hu.mks] at hmarks
    rcases hmarks with hmarks | hmarks | ⟨y, f, other, config, hy, hmarks⟩
    · exact .inl ((State.recordsFrom.of_marks (fun m => .of_kind rfl) hmarks).at hm hn)
    · exact .inl ((State.recordsFrom.of_marks (fun m => .of_kind rfl) hmarks).at hm hn)
    · rw [State.mark, hmarks, findMark_putRecord h.ids] at hn
      split at hn
      · cases hn
        exact .inr ⟨MarkFields.mark_counting hy, .inl rfl⟩
      · obtain rfl : m = n := Option.some.inj (hm.symm.trans hn)
        exact .inl (.of_kind rfl)
  by_cases hstep : ∃ a, i = .stepArrival a
  · obtain ⟨a, rfl⟩ := hstep
    rcases ht.stepArrival_marks with hmarks | ⟨b, rfl⟩
    · exact .inl ((State.recordsFrom.of_marks (fun m => .of_kind rfl) hmarks).at hm hn)
    · have used : (s.setPauses s.pauses.tail).Lawful := { h with }
      exact ((stepArrival_counts used hidle _ b).at hm hn).imp_right fun hc => ⟨hc, .inr (.inr (.inr (.inr ⟨a, rfl⟩)))⟩
  have notStep : ∀ a, i ≠ .stepArrival a := fun a ha => hstep ⟨a, ha⟩
  by_cases harm : i = .armMarks ∨ i = .armGroup ∨ i = .strobeGroupArm
  · have hrun : i ≠ .run := by rcases harm with rfl | rfl | rfl <;> decide
    obtain ⟨u, hu, hfrom⟩ := ht.recordsFrom (countsReset_commands hrun) (fun m c p => .of_kind (m.bandCheck_kind c p)) hdef notStep h
    rw [unsettled hu, or_self] at hfrom
    rcases (hfrom.at (hmark hu) hn) with ⟨hbase, hr | hc⟩
    · exact .inl ⟨hbase, fun b hb => ⟨b, hr.symm.trans hb, le_refl b⟩⟩
    · refine .inr ⟨hc, ?_⟩
      rcases harm with rfl | rfl | rfl
      · exact .inr (.inl rfl)
      · exact .inr (.inr (.inl rfl))
      · exact .inr (.inr (.inr (.inl rfl)))
  · obtain ⟨u, hu, hfrom⟩ := ht.recordsFrom (countsDown_commands harm) (fun m c p => .of_kind (m.bandCheck_kind c p)) hdef notStep h
    rw [unsettled hu, or_self] at hfrom
    exact .inl (hfrom.at (hmark hu) hn)

/-- Settles O54: a count that rises was set back to its base count, by a definition or an arming; with an arrival in progress it may
have gone down again since. -/
theorem remainingCountRisesOnlyToBaseCount : Obligations.RemainingCountRisesOnlyToBaseCount := by
  intro i s t m n a b hexec ha hms hr hm hn hrm hrn hlt
  have h : s.Lawful := State.lawful_iff.mpr ⟨ha, hms, hr⟩
  have ht := exec_effect hexec
  refine ⟨?_, fun hidle => ?_⟩
  · rcases ht.countsWithin h hm hn with hc | hc
    · rcases hc.within b hrn with ⟨a', ha', hle⟩ | hbase
      · rw [hrm] at ha'
        cases ha'
        omega
      · exact hbase
    · exact ⟨b, hc.symm.trans hrn, le_refl b⟩
  · rcases ht.counts h hidle hm hn with hd | ⟨hc, hi⟩
    · obtain ⟨a', ha', hle⟩ := hd.down b hrn
      rw [hrm] at ha'
      cases ha'
      omega
    · exact ⟨hc.symm.trans hrn, hi⟩

end Sys2Proof.Machine
end

section
/-! Which events complete, what they keep of the queue and the clock (O3), the idle step (O2), the resets (O4, O55) and the end of a frame (O5). -/

namespace Sys2Proof.Machine

/-! ### Events by unit number -/

theorem onAxis_next_iff (n : Nat) (s : State) (f : Axis → State → State) : (∃ t, onAxis n s f = .next t) ↔ n < 8 := by
  unfold onAxis
  by_cases h : n < 8 <;> simp [h]

theorem onStrobe_next_iff (n : Nat) (s : State) (f : StrobeNo → State → State) : (∃ t, onStrobe n s f = .next t) ↔ n < 8 := by
  unfold onStrobe
  by_cases h : n < 8 <;> simp [h]

theorem onLine_next_iff (n : Nat) (s : State) (f : LineNo → State → State) : (∃ t, onLine n s f = .next t) ↔ n < 16 := by
  unfold onLine
  by_cases h : n < 16 <;> simp [h]

theorem onAxis_fault {n : Nat} (h : 8 ≤ n) (s : State) (f : Axis → State → State) : onAxis n s f = .fault .noSuchAxis :=
  dif_neg (Nat.not_lt.mpr h)

theorem onStrobe_fault {n : Nat} (h : 8 ≤ n) (s : State) (f : StrobeNo → State → State) : onStrobe n s f = .fault .noSuchStrobe :=
  dif_neg (Nat.not_lt.mpr h)

theorem onLine_fault {n : Nat} (h : 16 ≤ n) (s : State) (f : LineNo → State → State) : onLine n s f = .fault .noSuchLine :=
  dif_neg (Nat.not_lt.mpr h)

theorem wellFormed_of_command {i : Instr} {body : List Byte → State → Answer} (h : commandBody i = some body) : i.wellFormed = true := by
  cases i <;> simp only [commandBody, reduceCtorEq] at h <;> rfl

/-- An event completes exactly when it names a unit the part has (Table 0-4). -/
theorem wellFormed_iff (i : Instr) (s : State) : i.wellFormed = true ↔ ∃ t, exec i s = .next t := by
  cases hb : commandBody i with
  | some body =>
    rw [exec_command hb]
    exact ⟨fun _ => ⟨_, rfl⟩, fun _ => wellFormed_of_command hb⟩
  | none =>
    cases i <;> simp only [commandBody, reduceCtorEq] at hb
    case filteredSample n la lb lz =>
      exact decide_eq_true_iff.trans (onAxis_next_iff n s fun a => State.filteredSample a la lb lz).symm
    case pinSample n la lb lz => exact decide_eq_true_iff.trans (onAxis_next_iff n s fun a => State.pinSample a la lb lz).symm
    case timeCountExpiry n => exact decide_eq_true_iff.trans (onAxis_next_iff n s _).symm
    case stepArrival n =>
      exact decide_eq_true_iff.trans
        (onAxis_next_iff n s fun a t => State.stepArrival t.pauses.head?.join a (t.setPauses t.pauses.tail)).symm
    case jumpArrival n => exact decide_eq_true_iff.trans (onAxis_next_iff n s _).symm
    case strobeEdge n => exact decide_eq_true_iff.trans (onStrobe_next_iff n s _).symm
    case strobeQualificationExpiry n => exact decide_eq_true_iff.trans (onStrobe_next_iff n s _).symm
    case pulseEnd n => exact decide_eq_true_iff.trans (onLine_next_iff n s _).symm
    all_goals exact ⟨fun _ => ⟨_, rfl⟩, fun _ => rfl⟩

theorem exec_filteredSample (n : Nat) (la lb lz : Level) (s : State) :
    exec (.filteredSample n la lb lz) s = onAxis n s fun a => State.filteredSample a la lb lz := rfl

theorem exec_pinSample (n : Nat) (la lb lz : Level) (s : State) :
    exec (.pinSample n la lb lz) s = onAxis n s fun a => State.pinSample a la lb lz := rfl

theorem exec_stepArrival (n : Nat) (s : State) :
    exec (.stepArrival n) s = onAxis n s fun a t => State.stepArrival t.pauses.head?.join a (t.setPauses t.pauses.tail) := rfl

/-- An event that names no unit of the part stops with the fault of its kind of unit. -/
theorem exec_of_not_wellFormed {i : Instr} (h : i.wellFormed = false) (s : State) :
    exec i s = .fault .noSuchAxis ∨ exec i s = .fault .noSuchStrobe ∨ exec i s = .fault .noSuchLine := by
  cases i <;> try cases h
  case filteredSample n la lb lz =>
    rw [exec_filteredSample]
    exact .inl (onAxis_fault (not_lt.mp (of_decide_eq_false h)) s _)
  case pinSample n la lb lz =>
    rw [exec_pinSample]
    exact .inl (onAxis_fault (not_lt.mp (of_decide_eq_false h)) s _)
  case timeCountExpiry n => exact .inl (onAxis_fault (not_lt.mp (of_decide_eq_false h)) s _)
  case stepArrival n =>
    rw [exec_stepArrival]
    exact .inl (onAxis_fault (not_lt.mp (of_decide_eq_false h)) s _)
  case jumpArrival n => exact .inl (onAxis_fault (not_lt.mp (of_decide_eq_false h)) s _)
  case strobeEdge n => exact .inr (.inl (onStrobe_fault (not_lt.mp (of_decide_eq_false h)) s _))
  case strobeQualificationExpiry n => exact .inr (.inl (onStrobe_fault (not_lt.mp (of_decide_eq_false h)) s _))
  case pulseEnd n => exact .inr (.inr (onLine_fault (not_lt.mp (of_decide_eq_false h)) s _))

/-! ### The queue and the clock -/

/-- The queue of events, the list of pauses and the tick counter are those of `s`. -/
structure SameClock (s t : State) : Prop where
  pending : t.pending = s.pending
  pauses : t.pauses = s.pauses
  tick : t.tick = s.tick

theorem SameClock.refl (s : State) : SameClock s s := ⟨rfl, rfl, rfl⟩

/-- No unit reaches any of the three. -/
theorem sameClock_units (s : State) : KeptByUnits (fun _ => True) (SameClock s) where
  fits _ _ := trivial
  report _ _ _ h := { h with }
  axis _ _ _ _ h := { h with }
  scheduler _ _ _ _ h := { h with }
  line _ _ _ _ _ h := { h with }
  capture _ _ _ h := { h with }
  strobe _ _ _ _ _ h := { h with }

theorem SameClock.command {u s t : State} {i : Instr} (ht : CommandEffect s i t) (h : SameClock u s) : SameClock u t := by
  have hP := sameClock_units u
  cases ht
  case run =>
    have entered : SameClock u (s.setRnc { s.rnc with state := .run }) := { h with }
    exact hP.catchUpEach _ (hP.report _ _ rfl entered)
  case armMarks => exact State.eachMark_keeps (P := SameClock u) (fun _ id hs => hP.armMark id hs) _ h
  case disarmMarks => exact State.eachMark_keeps (P := SameClock u) (fun _ id hs => hP.disarmMark id hs) _ h
  case armGroup => exact hP.armMembers _ h
  case disarmGroup => exact hP.disarmMembers _ h
  case captureNow =>
    rw [State.storeCapture_eq]
    exact { h with }
  all_goals exact { h with }

/-- What an event does to the three: nothing, but the pause that a STEP_ARRIVAL uses up and the tick counter of a reset. -/
theorem EventEffect.clock {s t : State} {i : Instr} (ht : EventEffect s i t) :
    SameClock s t ∨ ((∃ n, i = .stepArrival n) ∧ SameClock (s.setPauses s.pauses.tail) t) ∨
      (resetsAt s i ∧ t.pending = s.pending ∧ t.pauses = s.pauses ∧ t.tick = 0) := by
  have hP := sameClock_units s
  have same := SameClock.refl s
  have lost : ∀ (u : State) (c : HoldCause), SameClock s u → SameClock s (u.loseSession c) := fun u c hu => by
    have hs := hP.settled hu
    rw [State.loseSession_eq]
    exact { hs with }
  cases ht
  case hardReset pins => exact .inr (.inr ⟨.inl ⟨pins, rfl⟩, rfl, rfl, rfl⟩)
  case commandReset pins hd => exact .inr (.inr ⟨.inr ⟨⟨pins, rfl⟩, hd⟩, rfl, rfl, rfl⟩)
  case filteredSample => exact .inl (hP.filteredSample _ _ _ _ same)
  case pinSample => exact .inl (hP.pinSample _ _ _ _ same)
  case timeCount => exact .inl (hP.timeCount _ same)
  case stepArrival a =>
    exact .inr (.inl ⟨⟨_, rfl⟩, (sameClock_units (s.setPauses s.pauses.tail)).stepArrival _ _ (.refl _)⟩)
  case jumpArrival => exact .inl (hP.jumpArrival _ same)
  case strobeEdge => exact .inl (hP.strobeEdge _ same)
  case qualified => exact .inl (hP.qualified _ (fun _ _ => trivial) same)
  case strobeGroupArm => exact .inl (hP.strobeGroupArm same)
  case signalLoss k _ _ => exact .inl (lost _ _ { same with })
  case silenceLoss => exact .inl (lost _ _ same)
  case character value mark =>
    obtain ⟨q, c, he⟩ := s.character_eq value mark
    rw [he]
    exact .inl { same with }
  case executed ht =>
    have dropped : SameClock s s.dropEntry := { same with }
    have done := SameClock.command ht (State.executedOn_keeps hP.stage i dropped)
    exact .inl { done with }
  all_goals exact .inl { same with }

/-- Settles O3: completion is a case split over the events, and the three fields are read off the effects of the list. -/
theorem eventsCompleteAndKeepQueueAndTick : Obligations.EventsCompleteAndKeepQueueAndTick := by
  refine ⟨fun i s => ⟨wellFormed_iff i s, fun n hi => ?_, fun n hi => ?_, fun n hi => ?_, fun h => exec_of_not_wellFormed h s⟩,
    fun i s t he => ?_⟩
  · rcases hi with ⟨la, lb, lz, rfl | rfl⟩ | rfl | rfl | rfl
    · exact ⟨decide_eq_true_iff, fun h => (exec_filteredSample n la lb lz s).trans (onAxis_fault h s _)⟩
    · exact ⟨decide_eq_true_iff, fun h => (exec_pinSample n la lb lz s).trans (onAxis_fault h s _)⟩
    · exact ⟨decide_eq_true_iff, fun h => onAxis_fault h s _⟩
    · exact ⟨decide_eq_true_iff, fun h => (exec_stepArrival n s).trans (onAxis_fault h s _)⟩
    · exact ⟨decide_eq_true_iff, fun h => onAxis_fault h s _⟩
  · rcases hi with rfl | rfl
    all_goals exact ⟨decide_eq_true_iff, fun h => onStrobe_fault h s _⟩
  · subst hi
    exact ⟨decide_eq_true_iff, fun h => onLine_fault h s _⟩
  · rcases (exec_effect he).clock with h | ⟨hi, h⟩ | ⟨hi, hpending, hpauses, htick⟩
    · exact ⟨h.pending, .inl h.pauses, .inl h.tick⟩
    · exact ⟨h.pending, .inr ⟨hi, h.pauses⟩, .inl h.tick⟩
    · exact ⟨hpending, .inl hpauses, .inr ⟨htick, hi⟩⟩

/-! ### Resets -/

theorem pinLevel_high (pins : BitVec 8) (n : Nat) : pinLevel pins n = .high ↔ pins.getLsbD n = true := by
  unfold pinLevel
  split
  · rename_i h
    exact ⟨fun _ => h, fun _ => rfl⟩
  · rename_i h
    exact ⟨nofun, fun hp => absurd hp h⟩

@[simp] theorem State.resetPart_axis (s : State) (c : ResetCause) (pins : ResetPins) (a : Axis) :
    (s.resetPart c pins).axis a = .reset (pinLevel pins.encA a.val) (pinLevel pins.encB a.val) (pinLevel pins.encZ a.val) := by
  simp [State.resetPart, State.axis, State.setFreeIndex, State.setPauses, State.setPending, State.afterReset]

@[simp] theorem State.resetPart_line (s : State) (c : ResetCause) (pins : ResetPins) (n : LineNo) :
    (s.resetPart c pins).line n = .reset := by
  simp [State.resetPart, State.line, State.setFreeIndex, State.setPauses, State.setPending, State.afterReset]

@[simp] theorem State.resetPart_strobe (s : State) (c : ResetCause) (pins : ResetPins) (n : StrobeNo) :
    (s.resetPart c pins).strobe n = .reset (pinLevel pins.stb n.val) := by
  simp [State.resetPart, State.strobe, State.setFreeIndex, State.setPauses, State.setPending, State.afterReset]

/-- The straps read as a number of two bits (R138). -/
theorem LinkRate.ofStraps_code (x y : Level) : (LinkRate.ofStraps x y).code = 2 * Level.code x + Level.code y := by
  cases x <;> cases y <;> rfl

/-- Settles O4: the reset state, block by block. -/
theorem hardResetGivesResetValues : Obligations.HardResetGivesResetValues := by
  intro pins s
  refine ⟨s.resetPart .hard pins, rfl, rfl, rfl, rfl, rfl, fun a => ?_, rfl, rfl, fun n => by rw [State.resetPart_line]; rfl, fun n => ?_,
    rfl, rfl, rfl, ⟨LinkRate.ofStraps_code _ _, rfl, rfl, rfl, rfl, rfl, rfl⟩, rfl, rfl⟩
  · exact ⟨_, _, _, pinLevel_high _ _, pinLevel_high _ _, pinLevel_high _ _, State.resetPart_axis s _ pins a⟩
  · exact ⟨_, pinLevel_high _ _, State.resetPart_strobe s _ pins n⟩

/-- Settles O55: the reset state is a reset of itself, and a reset meets each law. -/
theorem resetMeetsInvariants : Obligations.ResetMeetsInvariants := by
  have reset_eq : ∃ pins, State.reset = State.reset.resetPart .hard pins := ⟨ResetPins.allLow, rfl⟩
  obtain ⟨pins, he⟩ := reset_eq
  unfold Obligations.ResetMeetsInvariants
  rw [he]
  obtain ⟨haxes, hmarks, harrival⟩ := State.lawful_iff.mp (State.Lawful.reset .hard pins State.reset)
  exact ⟨haxes, hmarks, harrival, (State.HoldLaw.reset _ _ _).safe, reset_reportsLawful _ _ _, reset_capturesLawful _ _ _,
    sessionLawful_iff.mpr ⟨reset_sessionTimers _ _ _, reset_slotLaw _ _ _⟩, LinkReceiver.lawful_reset _,
    countersLawful_iff.mpr (reset_countersLawful _ _ _)⟩

/-! ### The end of a frame -/

/-- The frame on the line is due once it has occupied TXD for ten bit times a byte (R138, R147). -/
theorem State.frameDue_iff {s : State} {x : Sending} (hx : s.ltx.sending = some x) :
    s.frameDue = true ↔ 10 * (6 + x.frame.payload.length) * 10000000 ≤
      (s.tick - x.started).toNat * [115200, 1000000, 3000000, 6000000].getD s.lrx.rate.code 0 := by
  rw [LinkRate.bitsPerSecond_eq, State.frameDue, hx]
  simp only [LinkRate.holds, TxFrame.bytes_length, decide_eq_true_eq]
  rfl

theorem exec_txFrameDone {s : State} {x : Sending} (hx : s.ltx.sending = some x) (pins : ResetPins) :
    exec (.txFrameDone pins) s = .next (if s.frameDue then s.frameDone pins x else s) := by
  change Host.Outcome.next (match s.ltx.sending with | some x => _ | none => _) = _
  rw [hx]

/-- Settles O5: before the frame is due nothing happens, and then its kind says what its end does. -/
theorem frameDoneEmptiesOrResets : Obligations.FrameDoneEmptiesOrResets := by
  intro pins s x rate hx hrate
  subst hrate
  have hdue := State.frameDue_iff hx
  rw [exec_txFrameDone hx]
  refine ⟨fun hearly => ?_, fun hlate => ⟨fun hk => ?_, fun hk hd => ?_, fun hk hd h he => ?_⟩⟩
  · rw [if_neg (fun h => absurd (hdue.mp h) (Nat.not_le.mpr hearly))]
  · rw [if_pos (hdue.mpr hlate)]
    unfold State.frameDone
    split
    · exact absurd ‹_› hk
    · rfl
    · rfl
  · rw [if_pos (hdue.mpr hlate), State.frameDone, hk]
    dsimp only
    rw [if_neg (by rw [hd]; decide)]
    rfl
  · rw [if_pos (hdue.mpr hlate), State.frameDone, hk]
    dsimp only
    rw [if_pos hd]
    injection he with he
    rw [← he]
    rfl

/-! ### The idle step -/

theorem State.step_of_empty {s : State} (h : s.pending = []) : step s = .next s.idle := by
  rw [step, h]

/-- Where an arrival pauses is drawn only as a step arrival is scheduled with none in progress and no pause listed (log entry 3). -/
theorem State.drawPauses_cases (s : State) :
    s.drawPauses = s ∨ (s.mks.arrival = none ∧ s.pauses = [] ∧ (∃ a, s.schedulerEvent = [.stepArrival a]) ∧
      s.drawPauses = (s.setPauses (Config.arrivalPauses s.freeIndex)).setFreeIndex (s.freeIndex + 1)) := by
  unfold State.drawPauses
  split
  · rename_i hn hp he
    exact .inr ⟨hn, hp, ⟨_, he⟩, rfl⟩
  · exact .inl rfl

theorem State.mem_readyEvents {s : State} {i : Instr} :
    i ∈ s.readyEvents ↔
      i ∈ s.schedulerEvent ∨ (i ∈ s.inboundEvent ∧ takesWhole i = false) ∨ (s.frameReady = true ∧ i = .txTakeFrame) := by
  have frame : i ∈ eventIf s.frameReady .txTakeFrame ↔ s.frameReady = true ∧ i = .txTakeFrame := by
    unfold eventIf
    cases s.frameReady <;> simp
  simp only [State.readyEvents, List.mem_append, List.mem_filter, Bool.not_eq_true', frame, or_assoc]

/-- While an arrival is in progress the Mark Scheduler's only event is to go on with it, unless it waits (R49). -/
theorem State.schedulerEvent_of_arrival {s : State} {r : ArrivalRecord} (h : s.mks.arrival = some r) :
    s.schedulerEvent = if s.pauses.head? = some (some 0) then [] else [.stepArrival r.axis.val] := by
  have hw : s.waits = decide (s.pauses.head? = some (some 0)) := by
    rw [State.waits, h]
    rfl
  rw [State.schedulerEvent, h]
  dsimp only
  rw [State.resumeEvent, h]
  dsimp only
  rw [hw, eventIf]
  by_cases hp : s.pauses.head? = some (some 0) <;> simp [hp]

/-- Settles O2: with something to schedule the queue is filled, and with nothing the clock moves. -/
theorem idleStepSchedulesOrTicks : Obligations.IdleStepSchedulesOrTicks := by
  intro s hp
  rw [State.step_of_empty hp]
  refine ⟨fun hne => ?_, fun hnone => ?_, fun r hr => ⟨?_, fun i hi => ?_⟩⟩
  · have hidle : s.idle = s.drawPauses.setPending (s.dueEvents ++ s.readyEvents) := by
      unfold State.idle
      split
      · exact absurd ‹_› hne
      · rfl
    rw [hidle]
    rcases s.drawPauses_cases with hd | ⟨hn, hpauses, ⟨a, he⟩, hd⟩ <;> rw [hd]
    · exact ⟨s.pauses, s.freeIndex, rfl, fun _ => ⟨rfl, rfl⟩⟩
    · refine ⟨_, _, rfl, fun hor => ?_⟩
      have hready : .stepArrival a ∈ s.readyEvents := State.mem_readyEvents.mpr (.inl (by rw [he]; exact List.mem_singleton_self _))
      rcases hor with h | h | h
      · rw [hn] at h
        cases h
      · exact absurd hpauses h
      · exact absurd hready (h a)
  · obtain ⟨-, hready⟩ := List.append_eq_nil_iff.mp hnone
    rw [State.idle, hnone]
    dsimp only
    rw [State.endWait_of_nothing_ready hready]
    cases hx : s.ltx.sending with
    | none =>
      refine ⟨0, ?_⟩
      unfold State.nextTick
      simp only [State.setPauses_ltx, hx]
      rfl
    | some x =>
      refine ⟨(x.progress s.lrx.rate (s.tick + 1)).sent, ?_⟩
      unfold State.nextTick
      simp only [State.setPauses_ltx, hx]
      rfl
  · rw [State.mem_readyEvents, State.schedulerEvent_of_arrival hr]
    split
    · rename_i hw
      refine ⟨fun h => ?_, fun h => absurd hw h⟩
      rcases h with h | ⟨h, -⟩ | ⟨-, h⟩
      · cases h
      · exact absurd rfl (State.inboundEvent_ne_own h _).1
      · cases h
    · rename_i hw
      exact ⟨fun _ => hw, fun _ => .inl (List.mem_singleton_self _)⟩
  · rw [State.mem_readyEvents, State.schedulerEvent_of_arrival hr] at hi
    rcases hi with h | ⟨h, hw⟩ | ⟨-, rfl⟩
    · split at h
      · cases h
      · exact .inl (List.mem_singleton.mp h)
    · obtain ⟨-, harm, hsignal⟩ := State.inboundEvent_ne_own h 0
      exact .inr ⟨hw, harm, hsignal⟩
    · exact .inr ⟨rfl, nofun, nofun⟩

end Sys2Proof.Machine
end

section
/-! The pins of an axis: filtering and decoding (O6, O7), and what a sample and a time count bring about (O8, O9). -/

namespace Sys2Proof.Machine

/-! ### Decoding -/

/-- The forward sequence of pairs (A, B), closed to a cycle (R7). -/
def forwardPairs : List (Level × Level) := [(.low, .low), (.high, .low), (.high, .high), (.low, .high), (.low, .low)]

/-- One pair follows the other in the forward sequence. -/
abbrev pairFollows (x y : Level × Level) : Prop := (x, y) ∈ forwardPairs.zip forwardPairs.tail

theorem decodeX4_cases (ra rb a b : Level) :
    (pairFollows (ra, rb) (a, b) → decodeX4 ra rb a b = .count .up) ∧ (pairFollows (a, b) (ra, rb) → decodeX4 ra rb a b = .count .down) ∧
      (ra ≠ a → rb ≠ b → decodeX4 ra rb a b = .phaseError) ∧ ((a, b) = (ra, rb) → decodeX4 ra rb a b = .nothing) := by
  cases ra <;> cases rb <;> cases a <;> cases b <;> decide

theorem decodeX2_cases (o a b : Level) :
    (o = .low → (a, b) = (.high, .low) → decodeX2 o a b = .count .up) ∧ (o = .low → (a, b) = (.high, .high) → decodeX2 o a b = .count .down) ∧
      (o = .high → (a, b) = (.low, .high) → decodeX2 o a b = .count .up) ∧
      (o = .high → (a, b) = (.low, .low) → decodeX2 o a b = .count .down) ∧ (o = a → decodeX2 o a b = .nothing) := by
  cases o <;> cases a <;> cases b <;> decide

theorem decodeX1_cases (o a b : Level) :
    (o = .low → (a, b) = (.high, .low) → decodeX1 o a b = .count .up) ∧ (o = .high → (a, b) = (.low, .low) → decodeX1 o a b = .count .down) ∧
      (o = a ∨ b = .high → decodeX1 o a b = .nothing) := by
  cases o <;> cases a <;> cases b <;> decide

theorem decodeStepDir_cases (o a b : Level) :
    (o = .low → (a, b) = (.high, .low) → decodeStepDir o a b = .count .up) ∧
      (o = .low → (a, b) = (.high, .high) → decodeStepDir o a b = .count .down) ∧ (o = .high ∨ a = .low → decodeStepDir o a b = .nothing) := by
  cases o <;> cases a <;> cases b <;> decide

theorem decodeUpDown_cases (oa ob a b : Level) :
    (oa = .low → a = .high → ¬(ob = .low ∧ b = .high) → decodeUpDown oa ob a b = .count .up) ∧
      (ob = .low → b = .high → ¬(oa = .low ∧ a = .high) → decodeUpDown oa ob a b = .count .down) ∧
      ((oa = .low → a = .high → ob = .low ∧ b = .high) → (ob = .low → b = .high → oa = .low ∧ a = .high) →
        decodeUpDown oa ob a b = .nothing) := by
  cases oa <;> cases ob <;> cases a <;> cases b <;> decide

/-- Settles O6: each mode decodes by its own table, which is checked level by level. -/
theorem pinModesDecode : Obligations.PinModesDecode := by
  intro u v
  refine ⟨fun hm => ?_, fun hm => ?_, fun hm => ?_, fun hm => ?_, fun hm => ?_, fun hm => ?_⟩
  · rw [AxisUnit.decode, hm]
    exact decodeX4_cases _ _ _ _
  · rw [AxisUnit.decode, hm]
    exact decodeX2_cases _ _ _
  · rw [AxisUnit.decode, hm]
    exact decodeX1_cases _ _ _
  · rw [AxisUnit.decode, hm]
    exact decodeStepDir_cases _ _ _
  · rw [AxisUnit.decode, hm]
    exact decodeUpDown_cases _ _ _ _
  · rw [AxisUnit.decode]
    rcases hm with hm | hm | hm <;> rw [hm]

/-! ### Filtering -/

theorem PinFilter.sample_same {p : PinFilter} {v : Level} (h : p.filtered = v) (f : Nat) :
    p.sample f v = { pin := v, filtered := v, runCount := 0 } := by
  rw [PinFilter.sample, if_pos h.symm, h]

/-- Samples that read the other level are counted, until there are 2f + 1 of them (R5). -/
theorem PinFilter.iterate_sample {p : PinFilter} {v : Level} (hne : p.filtered ≠ v) (hrun : p.runCount = 0) (f : Nat) :
    ∀ k ≤ 2 * f, ((fun q => PinFilter.sample q f v)^[k] p).filtered = p.filtered ∧ ((fun q => PinFilter.sample q f v)^[k] p).runCount = k := by
  intro k
  induction k with
  | zero => exact fun _ => ⟨rfl, hrun⟩
  | succ k ih =>
    intro hk
    obtain ⟨hfiltered, hcount⟩ := ih (by omega)
    rw [Function.iterate_succ_apply', PinFilter.sample, if_neg (by rw [hfiltered]; exact hne.symm), if_pos (by rw [hcount]; omega)]
    exact ⟨hfiltered, by dsimp only; rw [hcount]⟩

theorem PinFilter.iterate_sample_full {p : PinFilter} {v : Level} (hne : p.filtered ≠ v) (hrun : p.runCount = 0) (f : Nat) :
    (fun q => PinFilter.sample q f v)^[2 * f + 1] p = { pin := v, filtered := v, runCount := 0 } := by
  obtain ⟨hfiltered, hcount⟩ := PinFilter.iterate_sample hne hrun f (2 * f) le_rfl
  rw [Function.iterate_succ_apply', PinFilter.sample, if_neg (by rw [hfiltered]; exact hne.symm), if_neg (by rw [hcount]; omega)]

/-- Settles O7: the filter by induction on the samples, and the two events by whether a filtered level changes. -/
theorem samplesFilterThePins : Obligations.SamplesFilterThePins := by
  refine ⟨fun p f k v => ⟨fun hne hrun hk => PinFilter.iterate_sample hne hrun f k hk, fun hne hrun => PinFilter.iterate_sample_full hne hrun f,
    fun h => PinFilter.sample_same h f⟩, fun s a la lb lz v hv => ⟨fun hc => ⟨?_, ?_⟩, fun hc => ?_⟩⟩
  · rw [exec_pinSample, onAxis_val]
    simp only [State.pinSample, ← hv, hc, Bool.false_eq_true, if_false]
  · rw [exec_filteredSample, onAxis_val]
    simp only [State.filteredSample, ← hv, hc, Bool.false_eq_true, if_false]
  · rw [exec_pinSample, onAxis_val]
    simp only [State.pinSample, ← hv, hc, if_true]

/-! ### Counts -/

/-- Taking a count: with room for it, the step; at the LINEAR limit, the flag and one report (R13 to R16). -/
theorem State.countAxis_of_moves {s : State} {a : Axis} {d : Direction} {q : Int}
    (h : (s.axis a).config.moves (s.axis a).pos ((s.axis a).config.directed d) q) :
    s.countAxis a d = s.setAxis a ((s.axis a).takeStep q ((s.axis a).config.directed d) s.tick) := by
  obtain ⟨w, hw⟩ := AxisConfig.countTo_of_moves h
  unfold State.countAxis
  dsimp only
  rw [hw]

theorem State.countAxis_of_atLimit {s : State} {a : Axis} {d : Direction}
    (h : (s.axis a).config.atLimit (s.axis a).pos ((s.axis a).config.directed d)) :
    s.countAxis a d = (s.setAxis a { s.axis a with limitFlag := true }).reportIf (!(s.axis a).limitFlag)
      (.axisFault a .limit (s.axis a).pos s.tick (s.axis a).phaseErrors) := by
  unfold State.countAxis
  dsimp only
  rw [AxisConfig.countTo_of_atLimit h]

/-- A count that is no wrap reaches no other axis (R11, R14). -/
theorem State.count_of_no_wrap {s : State} {a : Axis} {d : Direction} (h : s.wrapOf a d = none) : s.count a d = s.countAxis a d := by
  rw [State.count, Config.revsDepth, State.deliverCount, h]

theorem State.wrapOf_of_atLimit {s : State} {a : Axis} {d : Direction}
    (h : (s.axis a).config.atLimit (s.axis a).pos ((s.axis a).config.directed d)) : s.wrapOf a d = none := by
  unfold State.wrapOf
  dsimp only
  rw [AxisConfig.countTo_of_atLimit h]

/-- A step of one position is no wrap. -/
theorem State.wrapOf_of_one {s : State} {a : Axis} {d : Direction}
    (h : (s.axis a).config.moves (s.axis a).pos ((s.axis a).config.directed d)
      ((s.axis a).pos + Direction.delta ((s.axis a).config.directed d))) : s.wrapOf a d = none := by
  have hto : ∀ q w, (s.axis a).config.countTo (s.axis a).pos ((s.axis a).config.directed d) = some (q, w) → w = false := by
    intro q w hq
    rcases h with ⟨hk, -⟩ | ⟨hk, h0, hM, hmod⟩
    · cases hd : (s.axis a).config.directed d <;> simp only [AxisConfig.countTo, hk, hd] at hq <;> split at hq <;> cases hq <;> rfl
    · have hpos : (0 : Int) < (s.axis a).config.modulus := by omega
      have hlow := Int.emod_nonneg ((s.axis a).pos + Direction.delta ((s.axis a).config.directed d)) hpos.ne'
      have hhigh := Int.emod_lt_of_pos ((s.axis a).pos + Direction.delta ((s.axis a).config.directed d)) hpos
      rw [← hmod] at hlow hhigh
      cases w with
      | false => rfl
      | true =>
        cases hd : (s.axis a).config.directed d <;> simp only [AxisConfig.countTo, hk, hd, Direction.delta] at hq hlow hhigh <;>
          split at hq <;> cases hq <;> omega
  unfold State.wrapOf
  dsimp only
  split
  · rename_i q hq
    exact absurd (hto q true hq) (by decide)
  · rfl

theorem State.setAxis_setAxis (s : State) (a : Axis) (u v : AxisUnit) : (s.setAxis a u).setAxis a v = s.setAxis a v := by
  simp [State.setAxis, State.setAxes]

theorem State.setAxis_config {s : State} {a : Axis} {u : AxisUnit} (hu : u.config = (s.axis a).config) (x : Axis) :
    ((s.setAxis a u).axis x).config = (s.axis x).config := by
  rw [State.setAxis_axis]
  split
  · rename_i hxa
    rw [hu, hxa]
  · rfl

/-- Who counts whose wraps is read off the records alone. -/
theorem State.noFollower_setAxis {s : State} {a : Axis} {u : AxisUnit} (hu : u.config = (s.axis a).config) {b : Axis}
    (h : s.noFollower b) : (s.setAxis a u).noFollower b := by
  intro x
  rw [← h x, State.countsWrapsOf, State.countsWrapsOf, State.setAxis_config hu]

/-- A count of an axis just written, with room for it, that reaches no other axis. -/
theorem State.count_setAxis_step {s : State} {a : Axis} {u : AxisUnit} {d : Direction} {q : Int} (hu : u.config = (s.axis a).config)
    (hm : u.config.moves u.pos (u.config.directed d) q) (hone : s.noFollower a ∨ q = u.pos + Direction.delta (u.config.directed d)) :
    (s.setAxis a u).count a d = s.setAxis a (u.takeStep q (u.config.directed d) s.tick) := by
  have haxis : (s.setAxis a u).axis a = u := State.setAxis_same s a u
  have hstep : (s.setAxis a u).countAxis a d = s.setAxis a (u.takeStep q (u.config.directed d) s.tick) := by
    rw [State.countAxis_of_moves (q := q) (by rw [haxis]; exact hm), haxis, State.setAxis_setAxis]
    rfl
  rw [← hstep]
  rcases hone with hn | rfl
  · exact State.count_noFollower (State.noFollower_setAxis hu hn) d
  · exact State.count_of_no_wrap (State.wrapOf_of_one (by rw [haxis]; exact hm))

/-- A count of an axis just written, refused at its LINEAR limit. -/
theorem State.count_setAxis_limit {s : State} {a : Axis} {u : AxisUnit} {d : Direction} (h : u.config.atLimit u.pos (u.config.directed d)) :
    (s.setAxis a u).count a d = (s.setAxis a { u with limitFlag := true }).reportIf (!u.limitFlag)
      (.axisFault a .limit u.pos s.tick u.phaseErrors) := by
  have haxis : (s.setAxis a u).axis a = u := State.setAxis_same s a u
  rw [State.count_of_no_wrap (State.wrapOf_of_atLimit (by rw [haxis]; exact h)),
    State.countAxis_of_atLimit (by rw [haxis]; exact h), haxis, State.setAxis_setAxis]
  rfl

theorem AxisUnit.nextInterval_eq (u : AxisUnit) (t : Tick) : u.nextInterval t = u.lastStep.map fun b => min (t - b).toNat 4294967295 := by
  unfold AxisUnit.nextInterval
  cases u.lastStep <;> rfl

theorem AxisUnit.keepReference_eq (u : AxisUnit) :
    u.keepReference =
      { u with
        refA := if u.config.mode = .quadX4 then u.a.filtered else u.refA
        refB := if u.config.mode = .quadX4 then u.b.filtered else u.refB } := by
  unfold AxisUnit.keepReference
  cases u.config.mode <;> rfl

/-! ### The index -/

theorem Qualifier.passesIndex_iff (q : Qualifier) (last : Option Direction) :
    q.passesIndex last = true ↔ q = .either ∨ (q = .up ∧ last = some .up) ∨ (q = .down ∧ last = some .down) := by
  cases q <;> cases last with
  | none => decide
  | some d => cases d <;> decide

/-- The index edge of an axis, by whether it passes and by its index mode (R17, R18). -/
theorem State.indexEdge_of_passed {c : State} {a : Axis}
    (h : (c.axis a).config.mode ≠ .off ∧ (c.axis a).config.indexQual.passesIndex (c.axis a).lastDir = true) :
    c.indexEdge a = c.indexEvent a := if_pos h

theorem State.indexEdge_of_failed {c : State} {a : Axis}
    (h : ¬((c.axis a).config.mode ≠ .off ∧ (c.axis a).config.indexQual.passesIndex (c.axis a).lastDir = true)) : c.indexEdge a = c :=
  if_neg h

theorem State.setAxis_self (s : State) (a : Axis) : s.setAxis a (s.axis a) = s := by
  simp [State.setAxis, State.setAxes, State.axis]

theorem State.indexEvent_ignore {c : State} {a : Axis} (h : (c.axis a).config.indexMode = .ignore) : c.indexEvent a = c := by
  unfold State.indexEvent AxisUnit.takeIndex
  simp only [h, ne_eq, not_true_eq_false, decide_false]
  exact State.setAxis_self c a

/-! ### The filtered sample -/

/-- A sample that changes a filtered level: the count, and then the index if its level rises (R17). -/
theorem State.filteredSample_of_change {s : State} {a : Axis} {la lb lz : Level}
    (hc : (s.axis a).filteredChange ((s.axis a).sample la lb lz) = true) :
    s.filteredSample a la lb lz =
      if (s.axis a).z.filtered = .low ∧ ((s.axis a).sample la lb lz).z.filtered = .high then
        ((s.setAxis a ((s.axis a).sample la lb lz).keepReference).takeDecoded a
          ((s.axis a).decode ((s.axis a).sample la lb lz))).indexEdge a
      else (s.setAxis a ((s.axis a).sample la lb lz).keepReference).takeDecoded a ((s.axis a).decode ((s.axis a).sample la lb lz)) := by
  unfold State.filteredSample
  dsimp only
  rw [if_pos hc]

/-- Settles O8: what A and B bring is one of the five results, and the index is judged on it. -/
theorem filteredSampleCountsThenIndexes : Obligations.FilteredSampleCountsThenIndexes := by
  intro s a la lb lz v w c hv hchange hw hcount
  rw [← AxisUnit.keepReference_eq] at hw
  subst hw
  have hconfig : v.keepReference.config = (s.axis a).config := by rw [AxisUnit.keepReference_config, hv]; rfl
  have hvconfig : v.config = (s.axis a).config := by rw [hv]; rfl
  have hpos := AxisUnit.keepReference_pos v
  have hsame : v.keepReference.config = v.config := AxisUnit.keepReference_config v
  have hlast : v.keepReference.lastStep = v.lastStep ∧ v.keepReference.arrivals = v.arrivals ∧ v.keepReference.limitFlag = v.limitFlag ∧
      v.keepReference.phaseFlag = v.phaseFlag ∧ v.keepReference.phaseErrors = v.phaseErrors := by
    rw [AxisUnit.keepReference_eq]
    exact ⟨rfl, rfl, rfl, rfl, rfl⟩
  obtain ⟨hstep, harrivals, hlimit, hphase, herrors⟩ := hlast
  have hc : c = (s.setAxis a v.keepReference).takeDecoded a ((s.axis a).decode v) := by
    rcases hcount with ⟨hd, rfl⟩ | ⟨d, e, q, hd, rfl, hm, hone, rfl⟩ | ⟨d, hd, hl, rfl⟩ | ⟨d, hd, rfl⟩ | ⟨hd, rfl⟩ <;> rw [hd]
    · rfl
    · change _ = (s.setAxis a v.keepReference).count a d
      rw [State.count_setAxis_step (q := q) hconfig (by rw [hsame, hpos]; exact hm) (by rw [hsame, hpos]; exact hone),
        AxisUnit.takeStep, AxisUnit.nextInterval_eq, hstep, harrivals, hsame]
      rfl
    · change _ = (s.setAxis a v.keepReference).count a d
      rw [State.count_setAxis_limit (by rw [hsame, hpos]; exact hl), hpos, hlimit, herrors]
    · rfl
    · change _ = (s.setAxis a v.keepReference).phaseError a
      unfold State.phaseError
      dsimp only
      rw [State.setAxis_same, State.setAxis_setAxis, hpos, hphase, herrors]
      rfl
  have htick : c.tick = s.tick := by
    rw [hc, (State.takeDecoded_motion _ a _).frame]
    rfl
  have hexec : exec (.filteredSample a.val la lb lz) s =
      .next (if (s.axis a).z.filtered = .low ∧ v.z.filtered = .high then c.indexEdge a else c) := by
    rw [exec_filteredSample, onAxis_val, hc]
    subst hv
    rw [State.filteredSample_of_change hchange]
  rw [hexec]
  refine ⟨fun hnot => by rw [if_neg hnot], fun hlow hhigh x pass hx hpass => ?_⟩
  rw [if_pos ⟨hlow, hhigh⟩]
  subst hx
  rw [← Qualifier.passesIndex_iff] at hpass
  have passed : pass = true → c.indexEdge a = c.indexEvent a := fun hp => State.indexEdge_of_passed (hpass.mp hp)
  refine ⟨fun hfail => ?_, fun hp hmode => ?_, fun hp hmode => ?_, fun hp hmode => ?_⟩
  · rcases hfail with hf | hmode
    · rw [State.indexEdge_of_failed fun hall => by rw [hpass.mpr hall] at hf; cases hf]
    · by_cases hp : pass = true
      · rw [passed hp, State.indexEvent_ignore hmode]
      · rw [State.indexEdge_of_failed fun hall => hp (hpass.mpr hall)]
  all_goals
    rw [passed hp, State.indexEvent, AxisUnit.takeIndex]
    simp only [hmode, htick]
    rfl

theorem due_iff (timer : Option Tick) (now : Tick) : due timer now = true ↔ timer = some now := by simp [due]

theorem exec_timeCountExpiry (a : Axis) (s : State) : exec (.timeCountExpiry a.val) s = .next (s.timeCount a) := onAxis_val a s _

/-- The time count restarts, and gives one UP count, at its end tick only (R10). -/
theorem State.timeCount_eq (s : State) (a : Axis) :
    s.timeCount a =
      if (s.axis a).timeEnd = some s.tick then
        (s.setAxis a { s.axis a with timeEnd := some (s.tick + BitVec.ofNat 48 (s.axis a).config.divisor) }).count a .up
      else s := by
  unfold State.timeCount
  simp only [due_iff]
  rfl

/-- Settles O9: the count of a time count is UP before inversion. -/
theorem timeCountRestartsAndCounts : Obligations.TimeCountRestartsAndCounts := by
  intro s a u v e hu he hv
  have hconfig : v.config = (s.axis a).config := by rw [hv, hu]
  have hdirected : v.config.directed .up = e := by rw [he, hconfig, hu]; rfl
  have taken : u.timeEnd = some s.tick → s.timeCount a = (s.setAxis a v).count a .up := fun ht => by
    rw [State.timeCount_eq, ← hu, if_pos ht, hv]
  rw [exec_timeCountExpiry]
  refine ⟨fun hne => by rw [State.timeCount_eq, ← hu, if_neg hne], fun ht hl => ?_, fun q ht hm hn => ?_⟩
  · have hlimit : v.config.atLimit v.pos (v.config.directed .up) := by
      rw [hdirected, hv]
      exact hl
    rw [taken ht, State.count_setAxis_limit hlimit, hv]
  · have hmoves : v.config.moves v.pos (v.config.directed .up) q := by
      rw [hdirected, hv]
      exact hm
    rw [taken ht, State.count_setAxis_step hconfig hmoves (.inl hn), hdirected, AxisUnit.takeStep, AxisUnit.nextInterval_eq, hv]

end Sys2Proof.Machine
end

section
/-! The mark table as a list: the ordered list of an axis (O11), the targets of PITCH marks (O12) and their catch-up (O13). -/

namespace Sys2Proof.Machine

/-! ### The ordered list of an axis -/

/-- The order of an axis's list is the lexicographic one of target and id (R31). -/
theorem Mark.before_iff (m n : Mark) : m.before n ↔ toLex (m.target, m.id) ≤ toLex (n.target, n.id) := by
  rw [Prod.Lex.toLex_le_toLex, Mark.before]

theorem Mark.before_trans {m n k : Mark} (h₁ : m.before n) (h₂ : n.before k) : m.before k := by
  rw [Mark.before_iff] at *
  exact h₁.trans h₂

theorem Mark.before_total (m n : Mark) : m.before n ∨ n.before m := by
  rw [Mark.before_iff, Mark.before_iff]
  exact le_total _ _

theorem insertByTarget_perm (m : Mark) : ∀ l : List Mark, (insertByTarget m l).Perm (m :: l)
  | [] => .refl _
  | x :: rest => by
    unfold insertByTarget
    split
    · exact .refl _
    · exact ((insertByTarget_perm m rest).cons x).trans (.swap m x rest)

/-- A mark put in its place keeps an ordered list ordered. -/
theorem insertByTarget_ordered (m : Mark) : ∀ {l : List Mark}, l.Pairwise Mark.before → (insertByTarget m l).Pairwise Mark.before
  | [], _ => List.pairwise_singleton _ _
  | x :: rest, h => by
    obtain ⟨hx, hrest⟩ := List.pairwise_cons.mp h
    unfold insertByTarget
    split
    next hm =>
      refine List.pairwise_cons.mpr ⟨fun n hn => ?_, h⟩
      rcases List.mem_cons.mp hn with rfl | hn
      · exact hm
      · exact Mark.before_trans hm (hx n hn)
    next hm =>
      refine List.pairwise_cons.mpr ⟨fun n hn => ?_, insertByTarget_ordered m hrest⟩
      rcases List.mem_cons.mp ((insertByTarget_perm m rest).mem_iff.mp hn) with rfl | hn
      · exact (Mark.before_total _ x).resolve_left hm
      · exact hx n hn

theorem foldr_insertByTarget_perm : ∀ l : List Mark, (l.foldr insertByTarget []).Perm l
  | [] => .refl _
  | m :: rest => (insertByTarget_perm m _).trans ((foldr_insertByTarget_perm rest).cons m)

theorem foldr_insertByTarget_ordered : ∀ l : List Mark, (l.foldr insertByTarget []).Pairwise Mark.before
  | [] => List.Pairwise.nil
  | m :: rest => insertByTarget_ordered m (foldr_insertByTarget_ordered rest)

theorem State.axisMarks_perm (s : State) (a : Axis) : (s.axisMarks a).Perm (s.mks.marks.filter fun m => decide (m.axis = a)) :=
  foldr_insertByTarget_perm _

/-- Settles O11: the list is a permutation of the marks of the axis, ordered by insertion, and the ids tell them apart. -/
theorem axisListIsSortedAndExact : Obligations.AxisListIsSortedAndExact := by
  intro s a hids
  have hdistinct : (s.axisMarks a).Pairwise fun m n => m.id ≠ n.id := by
    refine (State.axisMarks_perm s a).symm.pairwise ?_ fun h => Ne.symm h
    exact ((List.pairwise_map.mp hids).imp fun h => ne_of_lt h).filter _
  refine ⟨((foldr_insertByTarget_ordered _).and hdistinct).imp fun h => ?_, fun m => ?_⟩
  · obtain ⟨hbefore, hne⟩ := h
    exact hbefore.imp_right fun ⟨htarget, hid⟩ => ⟨htarget, lt_of_le_of_ne hid hne⟩
  · rw [(State.axisMarks_perm s a).mem_iff, List.mem_filter, decide_eq_true_iff]

/-! ### Targets (R36, R57) -/

/-- The least multiple of the step strictly past a distance. -/
theorem step_past {d : Int} {step : Nat} (hstep : 1 ≤ step) (hd : 0 ≤ d) :
    ∃ k : Nat, d / step + 1 = k ∧ d < k * step ∧ ∀ j : Nat, j < k → (j : Int) * step ≤ d := by
  have hpos : (0 : Int) < step := by omega
  obtain ⟨q, hq⟩ := Int.eq_ofNat_of_zero_le (Int.ediv_nonneg hd hpos.le)
  refine ⟨q + 1, by rw [hq]; rfl, ?_, fun j hj => ?_⟩
  · have := Int.lt_ediv_add_one_mul_self d hpos
    rw [hq] at this
    exact_mod_cast this
  · rw [← Int.le_ediv_iff_mul_le hpos, hq]
    omega

theorem alignedTarget_up {base p : Int} {step : Nat} (hstep : 1 ≤ step) :
    ∃ k : Nat, alignedTarget .up base step p = base + k * step ∧ p < base + k * step ∧ ∀ j : Nat, j < k → base + j * step ≤ p := by
  rw [alignedTarget]
  split
  next h => exact ⟨0, by omega, by omega, fun j hj => absurd hj (by omega)⟩
  next h =>
    obtain ⟨k, hk, hlt, hle⟩ := step_past hstep (show 0 ≤ p - base by omega)
    rw [hk]
    exact ⟨k, rfl, by omega, fun j hj => by have := hle j hj; omega⟩

theorem alignedTarget_down {base p : Int} {step : Nat} (hstep : 1 ≤ step) :
    ∃ k : Nat, alignedTarget .down base step p = base - k * step ∧ base - k * step < p ∧ ∀ j : Nat, j < k → p ≤ base - j * step := by
  rw [alignedTarget]
  split
  next h => exact ⟨0, by omega, by omega, fun j hj => absurd hj (by omega)⟩
  next h =>
    obtain ⟨k, hk, hlt, hle⟩ := step_past hstep (show 0 ≤ base - p by omega)
    rw [hk]
    exact ⟨k, rfl, by omega, fun j hj => by have := hle j hj; omega⟩

theorem inLinear_iff (v : Int) : inLinear v = true ↔ -2147483648 ≤ v ∧ v ≤ 2147483647 := by
  rw [inLinear, Bool.and_eq_true, decide_eq_true_iff, decide_eq_true_iff]
  rfl

theorem advancedTarget_eq (c : AxisConfig) {q : Qualifier} {target next : Int} {step : Nat}
    (h : next = match q with | .down => target - step | _ => target + step) :
    advancedTarget c q target step = match c.kind with | .linear => next | .rotary => next % c.modulus := by
  subst h
  unfold advancedTarget
  cases q <;> rfl

/-- The transition of a fired PITCH mark, by whether its next target stays in the LINEAR range (R57). -/
theorem Mark.fired_pitch {m : Mark} {step : Nat} {count remaining : Option Nat} (h : m.kind = .pitch step count remaining) (c : AxisConfig) :
    m.fired c =
      if c.kind = .linear ∧ ¬(inLinear (advancedTarget c m.qual m.target step) = true) then
        { m with state := .spent, kind := .pitch step count (remaining.map (· - 1)) }
      else
        { m with
          state := if remaining.map (· - 1) = some 0 then .spent else .armed
          target := advancedTarget c m.qual m.target step
          kind := .pitch step count (remaining.map (· - 1)) } := by
  unfold Mark.fired
  simp only [h, Bool.not_eq_true, Bool.not_eq_eq_eq_not, Bool.not_true]

/-- Settles O12: the aligned target by the least multiple past the position, and the transitions by the kind of mark and axis. -/
theorem pitchTargetsAlignAndAdvance : Obligations.PitchTargetsAlignAndAdvance := by
  refine ⟨fun base p step hstep => ⟨alignedTarget_up hstep, alignedTarget_down hstep⟩, fun m c => ⟨fun h => ?_, fun h' h => ?_, ?_⟩⟩
  · rw [Mark.fired, h]
  · rw [Mark.fired, h]
  · intro step count remaining next h hnext
    rw [Mark.fired_pitch h]
    have hadvanced := advancedTarget_eq c hnext
    refine ⟨fun hk => ?_, fun hk hlow hhigh => ?_, fun hk hout => ?_⟩
    · simp only [hk] at hadvanced
      rw [if_neg (by rw [hk]; simp), hadvanced]
    · simp only [hk] at hadvanced
      rw [if_neg fun hc => hc.2 ((inLinear_iff _).mpr (by rw [hadvanced]; exact ⟨hlow, hhigh⟩)), hadvanced]
    · simp only [hk] at hadvanced
      rw [if_pos ⟨hk, fun hc => by rw [inLinear_iff, hadvanced] at hc; omega⟩]

/-! ### The catch-up (R65, R66) -/

/-- The direction of a mark as a sign: +1 for UP, −1 for DOWN. -/
def Qualifier.hasSign (q : Qualifier) (dir : Int) : Prop := q = .up ∧ dir = 1 ∨ q = .down ∧ dir = -1

theorem Mark.behind_iff {m : Mark} {dir : Int} (h : m.qual.hasSign dir) (p : Int) : m.behind p = true ↔ 0 ≤ dir * (p - m.target) := by
  unfold Mark.behind
  rcases h with ⟨hq, rfl⟩ | ⟨hq, rfl⟩ <;> rw [hq] <;> simp only [decide_eq_true_eq] <;> omega

theorem skippedTargets_eq {q : Qualifier} {dir : Int} (h : q.hasSign dir) (target p : Int) (step : Nat) :
    skippedTargets q target step p = (dir * (p - target) / step + 1).toNat := by
  rcases h with ⟨rfl, rfl⟩ | ⟨rfl, rfl⟩
  · rw [skippedTargets, one_mul]
  · rw [skippedTargets, show (-1 : Int) * (p - target) = target - p by omega]

theorem caughtUpTarget_eq {q : Qualifier} {dir : Int} (h : q.hasSign dir) (target : Int) (step k : Nat) :
    caughtUpTarget q target step k = target + dir * k * step := by
  rcases h with ⟨rfl, rfl⟩ | ⟨rfl, rfl⟩
  · rw [caughtUpTarget, one_mul]
  · rw [caughtUpTarget, show (-1 : Int) * k = -k by omega, Int.neg_mul, Int.sub_eq_add_neg]

/-- The catch-up uses up the remaining count, or would leave the LINEAR range (R66). -/
def Mark.spentAfter (m : Mark) (remaining : Option Nat) (dir : Int) (step k : Nat) : Bool :=
  remaining.any (fun r => decide (r ≤ k)) || !inLinear (m.target + dir * k * step)

theorem Mark.spentAfter_iff (m : Mark) (remaining : Option Nat) (dir : Int) (step k : Nat) :
    m.spentAfter remaining dir step k = true ↔
      (∃ r, remaining = some r ∧ r ≤ k) ∨ m.target + dir * k * step < -2147483648 ∨ 2147483647 < m.target + dir * k * step := by
  have hin := inLinear_iff (m.target + dir * k * step)
  rw [Mark.spentAfter, Bool.or_eq_true, Option.any_eq_true, Bool.not_eq_true', ← Bool.not_eq_true, hin]
  simp only [decide_eq_true_eq]
  refine or_congr_right ⟨fun h => ?_, fun h => ?_⟩ <;> omega

/-- The mark that a catch-up of k targets leaves (R66). -/
def Mark.advancedBy (m : Mark) (count remaining : Option Nat) (dir : Int) (step k : Nat) : Mark :=
  { m with
    state := if m.spentAfter remaining dir step k then .spent else .armed
    target := if m.spentAfter remaining dir step k then m.target else m.target + dir * k * step
    kind := .pitch step count (remaining.map (· - k)) }

/-- The catch-up of a PITCH mark that goes UP or DOWN, by k targets (R65, R66). -/
theorem Mark.catchUp_pitch {m : Mark} {c : AxisConfig} {p dir : Int} {step : Nat} {count remaining : Option Nat}
    (hkind : m.kind = .pitch step count remaining) (hdir : m.qual.hasSign dir) {k : Nat}
    (hk : skippedTargets m.qual m.target step p = k) :
    m.catchUp c p =
      if m.state = .armed ∧ c.kind = .linear ∧ 0 ≤ dir * (p - m.target) then some (m.advancedBy count remaining dir step k, k) else none := by
  unfold Mark.catchUp
  simp only [hkind, Mark.behind_iff hdir, hk, caughtUpTarget_eq hdir]
  split
  next hc =>
    obtain ⟨hstate, -⟩ := hc
    cases remaining with
    | none => cases hin : inLinear (m.target + dir * k * step) <;> simp [Mark.advancedBy, Mark.spentAfter, hin, hstate]
    | some r =>
      by_cases hr : r ≤ k
      · simp [Mark.advancedBy, Mark.spentAfter, hr]
      · cases hin : inLinear (m.target + dir * k * step) <;> simp [Mark.advancedBy, Mark.spentAfter, hin, hr, hstate]
  next => rfl

/-- Settles O13: the number of targets skipped is the least multiple of the pitch past the position. -/
theorem catchUpSkipsLeastTargets : Obligations.CatchUpSkipsLeastTargets := by
  refine ⟨fun m c p hkind => ?_, fun m c p step count remaining dir hkind hstep hdir => ?_⟩
  · rcases hkind with h | ⟨h', h⟩ <;> rw [Mark.catchUp, h]
  · have hcatch := Mark.catchUp_pitch (c := c) (p := p) hkind hdir rfl
    refine ⟨?_, fun n k h => ?_⟩
    · rw [hcatch, ite_eq_right_iff]
      simp only [reduceCtorEq, imp_false]
    · rw [hcatch, Option.ite_none_right_eq_some] at h
      obtain ⟨⟨-, -, hbehind⟩, heq⟩ := h
      obtain ⟨rfl, hk⟩ := Prod.mk.inj (Option.some.inj heq)
      rw [hk]
      obtain ⟨j, hj, hlt, hle⟩ := step_past hstep hbehind
      rw [skippedTargets_eq hdir, hj, Int.toNat_natCast] at hk
      subst hk
      refine ⟨?_, hlt, hle, ?_⟩
      · by_contra h0
        rw [show j = 0 by omega] at hlt
        omega
      · simp only [Mark.advancedBy, Mark.spentAfter_iff]

end Sys2Proof.Machine
end

section
/-! The entries of an action list: their checks and their whole effect (O19). -/

namespace Sys2Proof.Machine

/-! ### Line entries -/

theorem Line.request_notOwner {l : Line} {o : Owner} (h : o ≠ l.owner) (r : LineRequest) (t : Tick) : l.request o r t = .notOwner := if_pos h

theorem Line.request_set (l : Line) (v : Level) (t : Tick) : l.request l.owner (.set v) t = .taken { l with level := v, pulse := none } :=
  if_neg fun h => h rfl

theorem Line.request_toggle (l : Line) (t : Tick) :
    l.request l.owner .toggle t = .taken { l with level := l.level.flip, pulse := none } :=
  if_neg fun h => h rfl

theorem Line.request_pulse (l : Line) (v : Level) (w : Nat) (t : Tick) : l.request l.owner (.pulse v w) t = l.pulseRequest v w t :=
  if_neg fun h => h rfl

theorem Line.pulseRequest_taken {l : Line} (h : l.pulse = none ∨ l.policy = .restart) (v : Level) (w : Nat) (t : Tick) :
    l.pulseRequest v w t = .taken { l with level := v, pulse := some { level := v, endTick := t + BitVec.ofNat 48 (10 * w) } } := by
  refine if_neg fun ⟨hpulse, hpolicy⟩ => ?_
  rcases h with h | h
  · rw [h] at hpulse
    cases hpulse
  · rw [h] at hpolicy
    cases hpolicy

theorem Line.pulseRequest_busy {l : Line} (hpulse : l.pulse.isSome = true) (hpolicy : l.policy = .refuse) (v : Level) (w : Nat) (t : Tick) :
    l.pulseRequest v w t = .busy { l with collisions := min (l.collisions + 1) 65535 } := if_pos ⟨hpulse, hpolicy⟩

/-- The request that a line entry makes, and its line (R73). -/
def Action.lineRequest : Action → Option (LineNo × LineRequest)
  | .pulse n v w => some (n, .pulse v w)
  | .set n v => some (n, .set v)
  | .toggle n => some (n, .toggle)
  | .snapshot _ | .preset _ _ | .armGroup _ | .disarmGroup _ => none

theorem State.takeEntry_line {x : Action} {n : LineNo} {r : LineRequest} (h : x.lineRequest = some (n, r)) (s : State) (c : ActionContext) :
    s.takeEntry c x = s.lineAction c n r := by
  cases x <;> cases h <;> rfl

theorem State.lineAction_of_taken {s : State} {n : LineNo} {r : LineRequest} {l : Line} (h : (s.line n).request .mark r s.tick = .taken l)
    (c : ActionContext) : s.lineAction c n r = s.setLine n l := by
  rw [State.lineAction, h]

theorem State.lineAction_of_host {s : State} {n : LineNo} (h : (s.line n).owner = .host) (c : ActionContext) (r : LineRequest) :
    s.lineAction c n r = s.report (.actionSkipped c.mark c.index .lineNotMarkOwned c.tick) := by
  rw [State.lineAction, Line.request_notOwner (by rw [h]; decide)]
  rfl

theorem State.lineAction_of_busy {s : State} {n : LineNo} {v : Level} {w : Nat} (ho : (s.line n).owner = .mark)
    (hpulse : (s.line n).pulse.isSome = true) (hpolicy : (s.line n).policy = .refuse) (c : ActionContext) :
    s.lineAction c n (.pulse v w) =
      (s.setLine n { s.line n with collisions := min ((s.line n).collisions + 1) 65535 }).report
        (.actionSkipped c.mark c.index .lineBusy c.tick) := by
  rw [State.lineAction, ← ho, Line.request_pulse, Line.pulseRequest_busy hpulse hpolicy]
  rfl

/-! ### SNAPSHOT and PRESET entries -/

/-- No axis of the mask counts (R77). -/
theorem State.allOff_iff (s : State) (mask : BitVec 8) :
    ((maskAxes mask).all fun a => decide ((s.axis a).config.mode = .off)) = true ↔
      ∀ a : Axis, mask.getLsbD a.val = true → (s.axis a).config.mode = .off := by
  simp only [List.all_eq_true, mem_maskAxes, decide_eq_true_eq]

theorem State.snapshotAction_off {s : State} {mask : BitVec 8} (h : ∀ a : Axis, mask.getLsbD a.val = true → (s.axis a).config.mode = .off)
    (c : ActionContext) : s.snapshotAction c mask = s.report (.actionSkipped c.mark c.index .axisOff c.tick) :=
  if_pos ((s.allOff_iff mask).mpr h)

/-- The record that a SNAPSHOT entry takes (R77). -/
def State.snapshotRecord (s : State) (c : ActionContext) (mask : BitVec 8) : Capture :=
  { source := .mark c.mark, gap := false, tick := c.tick, mask := mask, positions := s.positions mask }

theorem State.snapshotAction_on {s : State} {mask : BitVec 8} (h : ∃ a : Axis, mask.getLsbD a.val = true ∧ (s.axis a).config.mode ≠ .off)
    (c : ActionContext) :
    s.snapshotAction c mask =
      if s.cpq.records.length < 128 then s.storeCapture (s.snapshotRecord c mask)
      else (s.loseCapture (s.snapshotRecord c mask)).skip c .captureFull := by
  obtain ⟨a, ha, hon⟩ := h
  refine (if_neg fun hall => hon ((s.allOff_iff mask).mp hall a ha)).trans ?_
  simp only [CaptureQueue.room, decide_eq_true_eq]
  rfl

theorem State.presetAction_off {s : State} {b : Axis} (h : (s.axis b).config.mode = .off) (c : ActionContext) (x : Int) :
    s.presetAction c b x = s.report (.actionSkipped c.mark c.index .axisOff c.tick) := if_pos h

theorem State.presetAction_outOfRange {s : State} {b : Axis} {x : Int} (hon : (s.axis b).config.mode ≠ .off)
    (hx : (s.axis b).config.inRange x = false) (c : ActionContext) :
    s.presetAction c b x = s.report (.actionSkipped c.mark c.index .presetRange c.tick) :=
  (if_neg hon).trans (if_neg (by rw [hx]; decide))

theorem State.presetAction_inRange {s : State} {b : Axis} {x : Int} (hon : (s.axis b).config.mode ≠ .off)
    (hx : (s.axis b).config.inRange x = true) (c : ActionContext) :
    s.presetAction c b x = (s.setAxis b ((s.axis b).preset x s.tick)).notePreset b x := (if_neg hon).trans (if_pos hx)

/-- A PRESET entry of the arrival's axis changes what its group armings read from then on (R59, R82). -/
theorem State.notePreset_eq (s : State) (b : Axis) (x : Int) :
    s.notePreset b x =
      { s with
        mks := { s.mks with arrival := s.mks.arrival.map fun r => { r with reads := if r.axis = b then x else r.reads } } } := by
  unfold State.notePreset
  have same : (fun r : ArrivalRecord => if r.axis = b then { r with reads := x } else r) =
      fun r => { r with reads := if r.axis = b then x else r.reads } := by
    funext r
    by_cases h : r.axis = b
    · rw [if_pos h, if_pos h]
    · rw [if_neg h, if_neg h]
  rw [same]
  rfl

/-! ### Group entries -/

/-- The position an arming reads: with no arrival of the axis in progress the axis's own, else the arrival's (R33, R59, R82). -/
theorem State.positionRead_eq {s : State} {seen : Axis → Int} (hfree : ∀ a, (∀ r ∈ s.mks.arrival, r.axis ≠ a) → seen a = (s.axis a).pos)
    (harrival : ∀ r ∈ s.mks.arrival, seen r.axis = r.reads) : s.positionRead = seen := by
  funext a
  unfold State.positionRead
  cases hr : s.mks.arrival with
  | none => exact (hfree a (by rw [hr]; nofun)).symm
  | some r =>
    dsimp only
    split
    next ha => rw [← ha]; exact (harrival r hr).symm
    next ha =>
      refine (hfree a fun x hx => ?_).symm
      obtain rfl : r = x := Option.some.inj (hr.symm.trans hx)
      exact ha

theorem State.armMembers_seen {s : State} {seen : Axis → Int} (hids : SortedIds s.mks.marks) (hseen : s.positionRead = seen) (g : GroupNo) :
    (s.armMembers g).1 =
      { s with
        mks := { s.mks with
          marks := s.mks.marks.map fun m : Mark =>
            if m.group = g ∧ m.active = false ∧ m.armable (s.axis m.axis).config (seen m.axis) = true then
              m.arm (s.axis m.axis).config (seen m.axis)
            else m } } := by
  rw [State.armMembers_fst hids]
  have same : ∀ m : Mark, (if m.group = g then m.armedIn s else m) =
      if m.group = g ∧ m.active = false ∧ m.armable (s.axis m.axis).config (seen m.axis) = true then
        m.arm (s.axis m.axis).config (seen m.axis)
      else m := by
    intro m
    rw [ite_and, Mark.armedIn, hseen]
  simp only [same]
  rfl

/-- Disarming a mark changes its record and is noted by the arrival in progress (R37, R53). -/
theorem State.disarmMark_defined {s : State} (h : SortedIds s.mks.marks) {id : MarkId} (hd : s.mark id ≠ none) :
    (s.disarmMark id).1 = (s.setMarks (updateRecord Mark.disarmed id s.mks.marks)).setMks
      ((s.setMarks (updateRecord Mark.disarmed id s.mks.marks)).mks.noteDisarmed id) := by
  rw [State.disarmMark]
  cases hm : s.mark id with
  | none => exact absurd hm hd
  | some m =>
    dsimp only
    have := putRecord_eq_updateRecord h Mark.disarmed hm rfl
    rw [State.putMark, show ({ m with state := .disarmed } : Mark) = m.disarmed from rfl, this]

/-- The table with a list of marks disarmed, each noted by the arrival in progress. -/
def State.disarmedAll (s : State) (ids : List MarkId) : State :=
  { s with
    mks := { s.mks with
      marks := s.mks.marks.map fun m => if m.id ∈ ids then m.disarmed else m
      arrival := s.mks.arrival.map fun r => { r with disarmed := ids.reverse ++ r.disarmed } } }

theorem State.disarmEach_disarmedAll (ids : List MarkId) (hn : ids.Nodup) (s : State) (h : SortedIds s.mks.marks)
    (hd : ∀ id ∈ ids, s.mark id ≠ none) : (s.disarmEach ids).1 = s.disarmedAll ids := by
  induction ids generalizing s with
  | nil =>
    simp only [State.disarmEach, State.disarmedAll, List.not_mem_nil, if_false, List.map_id', List.reverse_nil, List.nil_append, Option.map_id']
  | cons id ids ih =>
    obtain ⟨hid, hn⟩ := List.nodup_cons.mp hn
    have hfst := State.disarmMark_defined h (hd id List.mem_cons_self)
    have hids : SortedIds (s.disarmMark id).1.mks.marks := by
      rw [hfst]
      change SortedIds (updateRecord _ id s.mks.marks)
      rw [SortedIds, map_id_updateRecord (by simp)]
      exact h
    have hrest : ∀ other ∈ ids, (s.disarmMark id).1.mark other ≠ none := by
      intro other ho
      have hne : id ≠ other := fun he => hid (he ▸ ho)
      rw [hfst]
      change findMark (updateRecord _ id s.mks.marks) other ≠ none
      rw [findMark_updateRecord (by simp) hne]
      exact hd other (List.mem_cons_of_mem _ ho)
    simp only [State.disarmEach]
    rw [ih hn _ hids hrest, hfst]
    change ({ s with mks := { s.mks with marks := (updateRecord _ id s.mks.marks).map _, arrival := (s.mks.arrival.map _).map _ } } : State) = _
    rw [map_updateRecord (by simp) hid, Option.map_map, State.disarmedAll]
    simp only [Function.comp_def, List.reverse_cons, List.append_assoc, List.cons_append, List.nil_append]

/-- A defined member is found under its id. -/
theorem State.members_defined {s : State} (h : SortedIds s.mks.marks) (g : GroupNo) (p : Mark → Bool) :
    ∀ id ∈ s.members g p, s.mark id ≠ none := by
  intro id hid
  obtain ⟨m, hm, rfl⟩ := List.mem_map.mp hid
  rw [State.mark, (findMark_eq_some h).mpr ⟨(List.mem_filter.mp hm).1, rfl⟩]
  exact Option.some_ne_none m

/-- Disarming only those members that are not DISARMED leaves the table as disarming them all. -/
theorem State.disarm_members_eq {s : State} (h : SortedIds s.mks.marks) (g : GroupNo) {m : Mark} (hm : m ∈ s.mks.marks) :
    (if m.id ∈ s.members g Mark.disarmable then m.disarmed else m) = if m.group = g then { m with state := .disarmed } else m := by
  rw [if_congr (State.mem_members h g Mark.disarmable hm) rfl rfl, ite_and]
  by_cases hg : m.group = g
  · rw [if_pos hg, if_pos hg]
    by_cases hd : m.disarmable = true
    · rw [if_pos hd]
      rfl
    · rw [if_neg hd]
      have hstate : m.state = .disarmed := by simpa [Mark.disarmable] using hd
      rw [← hstate]
  · rw [if_neg hg, if_neg hg]

/-- DISARM_GROUP: every member disarmed, and each one that was not DISARMED noted by the arrival in progress (R44, R83). -/
theorem State.disarmMembers_noted {s : State} (h : SortedIds s.mks.marks) (g : GroupNo) :
    (s.disarmMembers g).1 =
      { s with
        mks := { s.mks with
          marks := s.mks.marks.map fun m : Mark => if m.group = g then { m with state := .disarmed } else m
          arrival := s.mks.arrival.map fun r => { r with disarmed := (s.members g Mark.disarmable).reverse ++ r.disarmed } } } := by
  rw [State.disarmMembers, State.disarmEach_disarmedAll _ (State.members_nodup h g _) s h (State.members_defined h g _), State.disarmedAll,
    List.map_congr_left fun m hm => State.disarm_members_eq h g hm]

theorem State.mem_members_iff (s : State) (g : GroupNo) (p : Mark → Bool) (id : MarkId) :
    id ∈ s.members g p ↔ ∃ m ∈ s.mks.marks, m.id = id ∧ m.group = g ∧ p m = true := by
  simp only [State.members, List.mem_map, List.mem_filter, Bool.and_eq_true, decide_eq_true_eq]
  exact ⟨fun ⟨m, ⟨hm, hg, hp⟩, he⟩ => ⟨m, hm, he, hg, hp⟩, fun ⟨m, hm, he, hg, hp⟩ => ⟨m, ⟨hm, hg, hp⟩, he⟩⟩

/-! ### All entries -/

/-- Settles O19: each entry by its kind and its check. -/
theorem actionEntriesAreCheckedAndTaken : Obligations.ActionEntriesAreCheckedAndTaken := by
  intro s c n v w mask b x g
  refine ⟨fun ho => ⟨?_, ?_, fun hfree => ?_⟩, fun ho act hact => ?_, fun ho hpulse hpolicy => State.lineAction_of_busy ho hpulse hpolicy c,
    fun hoff => State.snapshotAction_off hoff c, fun hon hroom => ?_, fun hon hfull => ?_, fun hoff => State.presetAction_off hoff c x,
    fun hon hx => State.presetAction_outOfRange hon hx c, fun hon hx => ?_, fun seen hfree harrival hlaw => ?_, fun hlaw => ?_⟩
  · exact State.lineAction_of_taken (by rw [← ho]; exact Line.request_set _ _ _) c
  · exact State.lineAction_of_taken (by rw [← ho]; exact Line.request_toggle _ _) c
  · exact State.lineAction_of_taken (by rw [← ho, Line.request_pulse]; exact Line.pulseRequest_taken hfree _ _ _) c
  · obtain ⟨r, hr⟩ : ∃ r, act.lineRequest = some (n, r) := by
      rcases hact with rfl | rfl | rfl <;> exact ⟨_, rfl⟩
    rw [State.takeEntry_line hr, State.lineAction_of_host ho]
  · change s.snapshotAction c mask = _
    rw [State.snapshotAction_on hon, if_pos hroom]
    rfl
  · change s.snapshotAction c mask = _
    rw [State.snapshotAction_on hon, if_neg (Nat.not_lt.mpr hfull)]
    rfl
  · change s.presetAction c b x = _
    rw [State.presetAction_inRange hon hx, State.notePreset_eq]
    rfl
  · exact State.armMembers_seen hlaw.1 (State.positionRead_eq hfree harrival) g
  · refine ⟨(s.members g Mark.disarmable).reverse, fun id => ?_, State.disarmMembers_noted hlaw.1 g⟩
    rw [List.mem_reverse, State.mem_members_iff]
    simp only [Mark.disarmable, decide_eq_true_eq]

end Sys2Proof.Machine
end

section
/-! Whole arrivals: the band phase alone (O14), the firing of marks without actions (O15), and one line entry (O16). -/

namespace Sys2Proof.Machine

/-! ### Taking an arrival -/

theorem State.takeStepArrival_head {s : State} {a : Axis} {p : Int} {d : Direction} {t : Tick} {rest : List Arrival}
    (h : (s.axis a).arrivals = .step p d t :: rest) (x : Option Nat) :
    s.takeStepArrival a x = ((s.setAxis a { s.axis a with arrivals := rest }).beginStepArrival a p d t).goOn x := by
  rw [State.takeStepArrival, h]

/-- The state with an arrival taken from the order of its axis, and the pause of its event used up. -/
def State.withoutHead (s : State) (a : Axis) (rest : List Arrival) : State :=
  ({ s with pauses := s.pauses.tail } : State).setAxis a { s.axis a with arrivals := rest }

theorem State.withoutHead_config (s : State) (a : Axis) (rest : List Arrival) (x : Axis) :
    ((s.withoutHead a rest).axis x).config = (s.axis x).config := State.setAxis_config (by rfl) x

theorem State.withoutHead_marksLawful {s : State} (h : s.marksLawful) (a : Axis) (rest : List Arrival) : (s.withoutHead a rest).marksLawful :=
  ⟨h.1, fun m hm => by rw [State.withoutHead_config]; exact h.2 m hm⟩

theorem State.withoutHead_bandPhase (s : State) (a : Axis) (rest : List Arrival) (p : Int) :
    (s.withoutHead a rest).bandPhase a p =
      { s.withoutHead a rest with
        mks := { s.mks with marks := s.mks.marks.map fun m => if m.axis = a then m.bandCheck (s.axis a).config p else m } } := by
  rw [State.bandPhase, State.withoutHead_config]
  rfl

/-- STEP_ARRIVAL with no arrival in progress and no pause listed takes its arrival to its end (R49). -/
theorem exec_stepArrival_unpaused {s : State} {a : Axis} {p : Int} {d : Direction} {t : Tick} {rest : List Arrival}
    (h : (s.axis a).arrivals = .step p d t :: rest) (hn : s.mks.arrival = none) (hu : s.unpaused) :
    exec (.stepArrival a.val) s =
      .next ((s.withoutHead a rest).beginStepArrival a p d t).settled := by
  have htake : exec (.stepArrival a.val) s = .next (State.takeStepArrival { s with pauses := s.pauses.tail } a none) := by
    rw [exec_stepArrival, onAxis_val, show s.pauses.head?.join = none from hu, State.stepArrival,
      show (s.setPauses s.pauses.tail).mks.arrival = none from hn]
    rfl
  rw [htake, State.takeStepArrival_head (s := { s with pauses := s.pauses.tail }) h]
  rfl

theorem State.setArrival_setArrival (s : State) (r x : Option ArrivalRecord) : (s.setArrival r).setArrival x = s.setArrival x := rfl

theorem State.setArrival_self {s : State} {r : Option ArrivalRecord} (h : s.mks.arrival = r) : s.setArrival r = s := by
  subst h
  rfl

/-- The band phase reads the position and the axes, not the arrival record. -/
theorem State.setArrival_bandPhase (s : State) (r : Option ArrivalRecord) (a : Axis) (p : Int) :
    (s.setArrival r).bandPhase a p = (s.bandPhase a p).setArrival r := rfl

/-- A step arrival begun with nothing left to fire ends at once (R53). -/
theorem State.settled_of_no_turns {s : State} {r : ArrivalRecord} {p : Int} {d : Direction} {t : Tick} (hr : s.mks.arrival = some r)
    (hx : r.arrival = .step p d t) (hf : r.firing = none) (hl : r.fireList = []) (hc : s.acu = none) : s.settled = s.setArrival none := by
  rw [State.settled, hr]
  dsimp only
  rw [hx]
  dsimp only
  rw [State.completeFiring_idle hc (by rw [State.firing, hr, Option.bind_some, hf]), hl]
  rfl

theorem State.takeJumpArrival_eq {s : State} (h : s.mks.arrival = none) (a : Axis) (p : Int) (t : Tick) :
    s.takeJumpArrival a p t = s.bandPhase a p := by
  rw [State.takeJumpArrival, State.setArrival_bandPhase, State.setArrival_setArrival]
  exact State.setArrival_self h

/-- The record of a step arrival just begun (R50 to R52, R64). -/
def State.stepRecord (s : State) (a : Axis) (p : Int) (d : Direction) (t : Tick) : ArrivalRecord where
  axis := a
  arrival := .step p d t
  run := s.rnc.state
  fireList := if s.rnc.state = .run then (s.bandPhase a p).selectPhase a p d else []
  firing := none
  disarmed := []
  reads := p

theorem State.beginStepArrival_record (s : State) (a : Axis) (p : Int) (d : Direction) (t : Tick) :
    s.beginStepArrival a p d t = (s.bandPhase a p).setArrival (some (s.stepRecord a p d t)) := by
  unfold State.beginStepArrival State.stepRecord
  cases h : s.rnc.state <;> rfl

theorem State.beginStepArrival_hold_settled {s : State} (h : s.quiet) (hst : s.rnc.state = .hold) (a : Axis) (p : Int) (d : Direction)
    (t : Tick) : (s.beginStepArrival a p d t).settled = s.bandPhase a p := by
  obtain ⟨hn, hc⟩ := h
  have hlist : (s.stepRecord a p d t).fireList = [] := if_neg (by rw [hst]; decide)
  rw [State.beginStepArrival_record, State.settled_of_no_turns (s := (s.bandPhase a p).setArrival _) rfl rfl rfl hlist hc]
  exact State.setArrival_self (s := s.bandPhase a p) hn

/-- What the band phase does to one record (R35, R51). -/
theorem Mark.bandChecked_eq (m : Mark) (c : AxisConfig) (a : Axis) (p : Int) :
    (if m.axis = a then m.bandCheck c p else m) =
      match m.kind with
      | .repeating h => if m.axis = a ∧ m.state = .rearming ∧ h ≤ c.distance p m.target then { m with state := .armed } else m
      | _ => m := by
  unfold Mark.bandCheck
  cases hk : m.kind with
  | once => cases m.state <;> simp only [ite_self]
  | pitch step count remaining => cases m.state <;> simp only [ite_self]
  | repeating h =>
    cases hs : m.state with
    | rearming => simp only [ite_and, if_true]
    | _ => simp only [ite_self, reduceCtorEq, false_and, and_false, if_false]

theorem State.bandPhase_setAxis (s : State) (a : Axis) (p : Int) (rest : List Arrival) :
    (s.setAxis a { s.axis a with arrivals := rest }).bandPhase a p =
      { s.setAxis a { s.axis a with arrivals := rest } with
        mks := { s.mks with marks := s.mks.marks.map fun m => if m.axis = a then m.bandCheck (s.axis a).config p else m } } := by
  rw [State.bandPhase, State.setAxis_same]
  rfl

/-- Settles O14: the arrival leaves its order and its band phase is all there is. -/
theorem arrivalWithoutFiringBandChecks : Obligations.ArrivalWithoutFiringBandChecks := by
  intro s a p t rest banded hq hbanded
  obtain ⟨hn, hc⟩ := hq
  have heq : banded = (s.setAxis a { s.axis a with arrivals := rest }).bandPhase a p := by
    rw [hbanded, State.bandPhase_setAxis, List.map_congr_left fun m _ => Mark.bandChecked_eq m (s.axis a).config a p] <;> rfl
  refine ⟨fun h => ?_, fun d h hst hu => ?_⟩
  · have hjump : exec (.jumpArrival a.val) s = .next (s.jumpArrival a) := onAxis_val a s _
    rw [hjump, State.jumpArrival, State.settled_of_none hn]
    dsimp only
    rw [h, heq]
    exact congrArg Host.Outcome.next (State.takeJumpArrival_eq (s := s.setAxis a _) hn a p t)
  · rw [exec_stepArrival_unpaused h hn hu, heq]
    exact congrArg Host.Outcome.next
      (State.beginStepArrival_hold_settled (s := s.withoutHead a rest) ⟨hn, hc⟩ hst a p d t)

/-! ### A firing without actions -/

/-- A mark fired at tick `t`: counted, and its transition made (R54, R56, R57). -/
def Mark.firedAt (m : Mark) (t : Tick) (c : AxisConfig) : Mark := (m.counted t).fired c

@[simp] theorem Mark.firedAt_id (m : Mark) (t : Tick) (c : AxisConfig) : (m.firedAt t c).id = m.id := by
  rw [Mark.firedAt, Mark.fired_id]
  rfl

/-- A record put in its place twice is put there once. -/
theorem putRecord_putRecord {x y : Mark} (h : y.id = x.id) : ∀ marks : List Mark, putRecord y (putRecord x marks) = putRecord y marks
  | [] => by simp only [putRecord, h, lt_irrefl, if_false, if_true]
  | z :: rest => by
    rw [putRecord, putRecord, h]
    split
    next => rw [putRecord, h, if_neg (lt_irrefl _), if_pos rfl]
    next hlt =>
      split
      next => rw [putRecord, h, if_neg (lt_irrefl _), if_pos rfl]
      next hne => rw [putRecord, h, if_neg hlt, if_neg hne, putRecord_putRecord h rest]

theorem State.disarmedSince_eq {s : State} {r : ArrivalRecord} (h : s.mks.arrival = some r) (id : MarkId) :
    s.disarmedSince id = decide (id ∈ r.disarmed) := by
  rw [State.disarmedSince, h]

theorem State.setFireList_eq {s : State} {r : ArrivalRecord} (h : s.mks.arrival = some r) (ids : List MarkId) :
    s.setFireList ids = s.setArrival (some { r with fireList := ids }) := by
  rw [State.setFireList, h]
  rfl

theorem State.setFireList_arrival {s : State} {r : ArrivalRecord} (h : s.mks.arrival = some r) (ids : List MarkId) :
    (s.setFireList ids).mks.arrival = some { r with fireList := ids } := by
  rw [State.setFireList_eq h]
  rfl

theorem State.setFiring_eq {s : State} {r : ArrivalRecord} (h : s.mks.arrival = some r) (id : Option MarkId) :
    s.setFiring id = s.setArrival (some { r with firing := id }) := by
  rw [State.setFiring, h]
  rfl

/-- The turn of a mark that is still ARMED and not disarmed since begins its firing; of any other it is passed over (R53). -/
theorem State.beginTurn_eligible {s : State} {r : ArrivalRecord} {m : Mark} {id : MarkId} (hr : s.mks.arrival = some r)
    (hm : s.mark id = some m) (harmed : m.state = .armed) (hd : id ∉ r.disarmed) (t : Tick) : s.beginTurn id t = s.beginFiring m t := by
  rw [State.beginTurn, hm]
  exact if_pos ⟨harmed, by rw [State.disarmedSince_eq hr, decide_eq_false hd]; rfl⟩

theorem State.beginTurn_passed {s : State} {r : ArrivalRecord} {id : MarkId} (hr : s.mks.arrival = some r)
    (h : (∀ m, s.mark id = some m → m.state ≠ .armed) ∨ id ∈ r.disarmed) (t : Tick) : s.beginTurn id t = s := by
  rw [State.beginTurn]
  cases hm : s.mark id with
  | none => rfl
  | some m =>
    refine if_neg fun ⟨harmed, hd⟩ => ?_
    rcases h with h | h
    · exact h m hm harmed
    · rw [State.disarmedSince_eq hr, decide_eq_true h] at hd
      cases hd

/-- The context that a firing hands over: IDLE for a mark without actions (R70). -/
def Mark.context (m : Mark) (t : Tick) : Option ActionContext :=
  if m.actions = [] then none else some { mark := m.id, tick := t, list := m.actions, index := 0 }

theorem State.beginFiring_eq {s : State} {r : ArrivalRecord} (hr : s.mks.arrival = some r) (m : Mark) (t : Tick) :
    s.beginFiring m t =
      { s with
        mks := { s.mks with marks := putRecord (m.counted t) s.mks.marks, arrival := some { r with firing := some m.id } }
        acu := m.context t } := by
  rw [State.beginFiring, State.setFiring_eq (s := s.putMark _) hr, Mark.context]
  cases m.actions <;> rfl

/-- The end of a firing: its report, and unless the mark was disarmed during its own list its transition (R55 to R58). -/
theorem State.endFiring_eq {s : State} {r : ArrivalRecord} {m : Mark} {id : MarkId} (hr : s.mks.arrival = some r) (hm : s.mark id = some m)
    (p : Int) (d : Direction) (t : Tick) :
    s.endFiring id p d t =
      { s with
        mks := { s.mks with
          marks := if id ∈ r.disarmed then s.mks.marks else putRecord (m.fired (s.axis m.axis).config) s.mks.marks
          arrival := some { r with firing := none } }
        rpq := if m.report then s.rpq.take (m.firedReport p d t) s.tick else s.rpq } := by
  rw [State.endFiring, hm]
  dsimp only
  have hmark : (s.reportIf m.report (m.firedReport p d t)).mark id = some m := by
    rw [State.reportIf_eq]
    exact hm
  have harrival : (s.reportIf m.report (m.firedReport p d t)).mks.arrival = some r := by
    rw [State.reportIf_eq]
    exact hr
  rw [State.transition, hmark]
  dsimp only
  rw [State.disarmedSince_eq harrival]
  by_cases hd : id ∈ r.disarmed
  · rw [decide_eq_true hd, if_pos rfl, if_pos hd, State.setFiring_eq harrival, State.reportIf_eq]
    rfl
  · rw [decide_eq_false hd, if_neg Bool.false_ne_true, if_neg hd, State.setFiring_eq (s := State.putMark _ _) harrival, State.reportIf_eq]
    rfl

/-- What the fire phase leaves of an arrival record: its turns taken, nothing firing. -/
def ArrivalRecord.turned (r : ArrivalRecord) (ids : List MarkId) : ArrivalRecord := { r with fireList := ids, firing := none }

/-- The turn of a mark without actions: counted, reported if its flag is YES, and its transition made (R53 to R57). -/
theorem State.turn_silent {s : State} {r : ArrivalRecord} {m : Mark} (hr : s.mks.arrival = some r) (hids : SortedIds s.mks.marks)
    (hm : s.mark m.id = some m) (harmed : m.state = .armed) (hactions : m.actions = []) (hd : r.disarmed = [])
    (rest : List MarkId) (p : Int) (d : Direction) (t : Tick) :
    ((s.setFireList rest).beginTurn m.id t).completeFiring p d t =
      { s with
        mks := { s.mks with
          marks := updateRecord (fun x => x.firedAt t (s.axis m.axis).config) m.id s.mks.marks, arrival := some (r.turned rest) }
        acu := none
        rpq := if m.report then s.rpq.take ((m.counted t).firedReport p d t) s.tick else s.rpq } := by
  have hidle : m.context t = none := if_pos hactions
  have hnot : ∀ id, id ∉ r.disarmed := fun id => by rw [hd]; exact List.not_mem_nil
  have hmark : findMark (putRecord (m.counted t) s.mks.marks) m.id = some (m.counted t) := by
    rw [findMark_putRecord hids]
    exact if_pos rfl
  have hput : putRecord ((m.counted t).fired (s.axis m.axis).config) (putRecord (m.counted t) s.mks.marks) =
      updateRecord (fun x => x.firedAt t (s.axis m.axis).config) m.id s.mks.marks := by
    rw [putRecord_putRecord (Mark.fired_id _ _)]
    exact putRecord_eq_updateRecord hids (fun x => x.firedAt t (s.axis m.axis).config) hm (Mark.firedAt_id _ _ _)
  have harrival : (s.setArrival (some { r with fireList := rest })).mks.arrival = some { r with fireList := rest } := rfl
  rw [State.setFireList_eq hr, State.beginTurn_eligible harrival hm harmed (hnot _), State.beginFiring_eq harrival, hidle,
    State.completeFiring, State.firing]
  dsimp only [Option.bind_some, State.runContext]
  refine (State.endFiring_eq (m := m.counted t) (r := { r with fireList := rest, firing := some m.id })
    (s := { s with
      mks := { s.mks with marks := putRecord (m.counted t) s.mks.marks, arrival := some { r with fireList := rest, firing := some m.id } }
      acu := none }) rfl hmark p d t).trans ?_
  dsimp only [State.setArrival, State.setMks]
  rw [if_neg (hnot m.id), ← hput]
  rfl

/-- The fire phase over marks without actions: each fires once, in ascending id order (R53 to R57). -/
theorem State.firePhase_silent (a : Axis) (p : Int) (d : Direction) (t : Tick) {c : AxisConfig} (L : List Mark) (hnodup : (L.map (·.id)).Nodup)
    (s : State) (hconfig : (s.axis a).config = c) {r : ArrivalRecord} (hr : s.mks.arrival = some r) (hd : r.disarmed = []) (hids : SortedIds s.mks.marks)
    (hc : s.acu = none)
    (hL : ∀ m ∈ L, s.mark m.id = some m ∧ m.axis = a ∧ m.state = .armed ∧ m.actions = []) :
    (s.firePhase p d t (L.map (·.id))).setArrival none =
      { s with
        mks := { s.mks with
          marks := s.mks.marks.map fun x => if x.id ∈ L.map (·.id) then x.firedAt t c else x
          arrival := none }
        rpq := (L.filter (·.report)).foldl (fun q m => q.take ((m.counted t).firedReport p d t) s.tick) s.rpq } := by
  induction L generalizing s r with
  | nil =>
    simp only [List.map_nil, List.not_mem_nil, if_false, List.map_id', List.filter_nil, List.foldl_nil]
    rfl
  | cons m rest ih =>
    obtain ⟨hnew, hrest⟩ := List.nodup_cons.mp hnodup
    obtain ⟨hm, ha, harmed, hactions⟩ := hL m List.mem_cons_self
    have hfire : ∀ x : Mark, (x.firedAt t c).id = x.id := fun x => x.firedAt_id t c
    rw [List.map_cons, State.firePhase, State.turn_silent hr hids hm harmed hactions hd, ha, hconfig,
      ih hrest _ ?config (r := r.turned (rest.map (·.id))) ?arrival hd ?ids ?idle ?kept]
    case config => exact hconfig
    case arrival => rfl
    case idle => rfl
    case ids =>
      change SortedIds (updateRecord _ _ _)
      rw [SortedIds, map_id_updateRecord hfire]
      exact hids
    case kept =>
      intro x hx
      obtain ⟨hmark, hx'⟩ := hL x (List.mem_cons_of_mem _ hx)
      have hne : m.id ≠ x.id := fun he => hnew (List.mem_map.mpr ⟨x, hx, he.symm⟩)
      refine ⟨?_, hx'⟩
      change findMark (updateRecord _ _ _) x.id = some x
      rw [findMark_updateRecord hfire hne]
      exact hmark
    dsimp only
    rw [map_updateRecord hfire hnew, List.filter_cons, hc]
    cases m.report <;> rfl

/-! ### The select phase on the band-checked table -/

/-- The conditions of R52, said with the qualifier's cases. -/
theorem selects_step_iff (a : Axis) (p : Int) (d : Direction) (t : Tick) (m : Mark) :
    (Arrival.step p d t).selects a m = true ↔
      m.axis = a ∧ m.state = .armed ∧ m.target = p ∧ (m.qual = .either ∨ (m.qual = .up ∧ d = .up) ∨ (m.qual = .down ∧ d = .down)) := by
  rw [Arrival.selects, Bool.and_eq_true, decide_eq_true_iff, Qualifier.accepts_iff, and_assoc, and_assoc]

/-- A mark that meets the conditions of R52 is not REARMING, and a band check makes no mark meet them: at the target there is no distance. -/
theorem Mark.bandCheck_selects {m : Mark} {c : AxisConfig} (h : m.lawful c) (a : Axis) (p : Int) (d : Direction) (t : Tick) :
    (Arrival.step p d t).selects a (m.bandCheck c p) = (Arrival.step p d t).selects a m ∧
      ((Arrival.step p d t).selects a m = true → m.bandCheck c p = m) := by
  rcases m.bandCheck_cases c p with heq | ⟨heq, hs, b, hk, hb⟩
  · rw [heq]
    exact ⟨rfl, fun _ => rfl⟩
  · have hnot : (Arrival.step p d t).selects a m = false := by
      simp [Arrival.selects, hs]
    obtain ⟨-, hkind, -⟩ := h
    have hband : 1 ≤ b := by
      rw [Mark.kindLawful, hk] at hkind
      exact (of_decide_eq_true hkind).2
    have hfar : m.target ≠ p := by
      rintro rfl
      rw [AxisConfig.distance_self] at hb
      omega
    refine ⟨?_, fun hsel => by rw [hnot] at hsel; cases hsel⟩
    rw [hnot, heq]
    simp [Arrival.selects, hfar]

/-- What the band phase leaves of one record (R51). -/
def Mark.bandChecked (m : Mark) (c : AxisConfig) (a : Axis) (p : Int) : Mark := if m.axis = a then m.bandCheck c p else m

@[simp] theorem Mark.bandChecked_id (m : Mark) (c : AxisConfig) (a : Axis) (p : Int) : (m.bandChecked c a p).id = m.id := by
  rw [Mark.bandChecked]
  split
  · exact m.bandCheck_id c p
  · rfl

theorem State.bandChecked_selects {s : State} {m : Mark} (h : m.lawful (s.axis m.axis).config) (a : Axis) (p : Int) (d : Direction) (t : Tick) :
    (Arrival.step p d t).selects a (m.bandChecked (s.axis a).config a p) = (Arrival.step p d t).selects a m ∧
      ((Arrival.step p d t).selects a m = true → m.bandChecked (s.axis a).config a p = m) := by
  rw [Mark.bandChecked]
  split
  next ha =>
    rw [ha] at h
    exact Mark.bandCheck_selects h a p d t
  next => exact ⟨rfl, fun _ => rfl⟩

/-- The marks that a step arrival selects after its band phase are those that meet the conditions before it (R51, R52). -/
theorem State.selected_bandPhase {s : State} (h : ∀ m ∈ s.mks.marks, m.lawful (s.axis m.axis).config) (a : Axis) (p : Int) (d : Direction)
    (t : Tick) :
    (s.bandPhase a p).mks.marks.filter ((Arrival.step p d t).selects a) = s.mks.marks.filter ((Arrival.step p d t).selects a) := by
  change (s.mks.marks.map fun m => m.bandChecked (s.axis a).config a p).filter _ = _
  have same : s.mks.marks.filter ((Arrival.step p d t).selects a ∘ fun m => m.bandChecked (s.axis a).config a p) =
      s.mks.marks.filter ((Arrival.step p d t).selects a) :=
    List.filter_congr fun m hm => (State.bandChecked_selects (h m hm) a p d t).1
  rw [List.filter_map, same]
  conv_rhs => rw [← List.map_id (s.mks.marks.filter _)]
  refine List.map_congr_left fun m hm => ?_
  obtain ⟨hmem, hsel⟩ := List.mem_filter.mp hm
  exact (State.bandChecked_selects (h m hmem) a p d t).2 hsel

theorem State.sorted_bandPhase {s : State} (h : SortedIds s.mks.marks) (a : Axis) (p : Int) : SortedIds (s.bandPhase a p).mks.marks := by
  have hids : (s.bandPhase a p).mks.marks.map (·.id) = s.mks.marks.map (·.id) := by
    change (s.mks.marks.map fun m => m.bandChecked (s.axis a).config a p).map _ = _
    rw [List.map_map]
    exact List.map_congr_left fun m _ => m.bandChecked_id _ a p
  rw [SortedIds, hids]
  exact h

/-- In a table that lists each mark once, an id is among those of the marks that meet a condition just when its mark meets it. -/
theorem SortedIds.mem_map_filter {marks : List Mark} (h : SortedIds marks) {m : Mark} (hm : m ∈ marks) (q : Mark → Bool) :
    m.id ∈ (marks.filter q).map (·.id) ↔ q m = true := by
  refine ⟨fun hid => ?_, fun hq => List.mem_map.mpr ⟨m, List.mem_filter.mpr ⟨hm, hq⟩, rfl⟩⟩
  obtain ⟨x, hx, he⟩ := List.mem_map.mp hid
  obtain ⟨hmem, hq⟩ := List.mem_filter.mp hx
  obtain rfl : x = m := Option.some.inj (((findMark_eq_some h).mpr ⟨hmem, he⟩).symm.trans ((findMark_eq_some h).mpr ⟨hm, rfl⟩))
  exact hq

theorem SortedIds.filter_nodup {marks : List Mark} (h : SortedIds marks) (q : Mark → Bool) : ((marks.filter q).map (·.id)).Nodup :=
  (h.sublist (List.Sublist.map _ List.filter_sublist)).imp ne_of_lt

/-- A step arrival begun and taken to its end is its fire phase (R49, R53). -/
theorem State.beginStepArrival_settled {s : State} (hc : s.acu = none) (a : Axis) (p : Int) (d : Direction) (t : Tick) :
    (s.beginStepArrival a p d t).settled =
      (((s.bandPhase a p).setArrival (some (s.stepRecord a p d t))).firePhase p d t (s.stepRecord a p d t).fireList).setArrival none := by
  rw [State.beginStepArrival_record, State.settled]
  change (State.firePhase (State.completeFiring _ p d t) p d t _).setArrival none = _
  rw [State.completeFiring_idle (s := (s.bandPhase a p).setArrival (some (s.stepRecord a p d t))) hc rfl]

/-- A step arrival in RUN, taken to its end, that selects marks without actions (R50 to R57). -/
theorem State.beginStepArrival_run_settled {s : State} (hq : s.quiet) (hst : s.rnc.state = .run) (hlaw : s.marksLawful) (a : Axis) (p : Int)
    (d : Direction) (t : Tick) (hsilent : ∀ m ∈ s.mks.marks, (Arrival.step p d t).selects a m = true → m.actions = []) :
    (s.beginStepArrival a p d t).settled =
      { s with
        mks := { s.mks with
          marks := s.mks.marks.map fun m =>
            if (Arrival.step p d t).selects a m then m.firedAt t (s.axis a).config else m.bandChecked (s.axis a).config a p }
        rpq := (s.mks.marks.filter fun m => (Arrival.step p d t).selects a m && m.report).foldl
          (fun q m => q.take ((m.counted t).firedReport p d t) s.tick) s.rpq } := by
  obtain ⟨hn, hc⟩ := hq
  obtain ⟨hids, hmarks⟩ := hlaw
  have hselected := State.selected_bandPhase hmarks a p d t
  have hsorted := State.sorted_bandPhase hids a p
  have hfire : (s.stepRecord a p d t).fireList = (s.mks.marks.filter ((Arrival.step p d t).selects a)).map (·.id) := by
    rw [← hselected]
    exact if_pos hst
  rw [State.beginStepArrival_settled hc, hfire,
    State.firePhase_silent a p d t (c := (s.axis a).config) _ (SortedIds.filter_nodup hids _) _ ?config (r := s.stepRecord a p d t) ?arrival rfl ?ids
      ?idle ?each]
  case config => rfl
  case arrival => rfl
  case ids => exact hsorted
  case idle => exact hc
  case each =>
    intro m hm
    obtain ⟨hmem, hsel⟩ := List.mem_filter.mp hm
    obtain ⟨ha, harmed, -⟩ := (selects_step_iff a p d t m).mp hsel
    refine ⟨(findMark_eq_some hsorted).mpr ⟨?_, rfl⟩, ha, harmed, hsilent m hmem hsel⟩
    rw [← hselected] at hm
    exact (List.mem_filter.mp hm).1
  have hmap : ((s.bandPhase a p).mks.marks.map fun x =>
        if x.id ∈ (s.mks.marks.filter ((Arrival.step p d t).selects a)).map (·.id) then x.firedAt t (s.axis a).config else x) =
      s.mks.marks.map fun m =>
        if (Arrival.step p d t).selects a m then m.firedAt t (s.axis a).config else m.bandChecked (s.axis a).config a p := by
    change (s.mks.marks.map fun m => m.bandChecked (s.axis a).config a p).map _ = _
    rw [List.map_map]
    refine List.map_congr_left fun m hm => ?_
    rw [Function.comp_apply, Mark.bandChecked_id, if_congr (SortedIds.mem_map_filter hids hm _) rfl rfl]
    split
    next hsel => rw [(State.bandChecked_selects (hmarks m hm) a p d t).2 hsel]
    next => rfl
  have hreports : (s.mks.marks.filter ((Arrival.step p d t).selects a)).filter (·.report) =
      s.mks.marks.filter fun m => (Arrival.step p d t).selects a m && m.report := by
    rw [List.filter_filter]
    exact List.filter_congr fun m _ => Bool.and_comm _ _
  dsimp only [State.setArrival, State.setMks]
  rw [hmap, hreports, ← hn]
  rfl

/-- Settles O15: the marks selected are those that meet the conditions of R52, and each fires in its turn. -/
theorem stepArrivalFiresSelectedMarks : Obligations.StepArrivalFiresSelectedMarks := by
  intro s a p d t rest selected hsel harrivals hst hq hu hlaw hsilent
  have hselected : selected = (Arrival.step p d t).selects a := by
    funext m
    rw [Bool.eq_iff_iff, hsel, selects_step_iff]
  subst hselected
  rw [exec_stepArrival_unpaused harrivals hq.1 hu,
    State.beginStepArrival_run_settled (s := s.withoutHead a rest) hq hst (State.withoutHead_marksLawful hlaw a rest) a p d t
      hsilent, State.withoutHead_config]
  have hreports : ∀ q : ReportQueue,
      (s.mks.marks.filter fun m => (Arrival.step p d t).selects a m && m.report).foldl
          (fun q m => q.take ((m.counted t).firedReport p d t) s.tick) q =
        (s.mks.marks.filter fun m => (Arrival.step p d t).selects a m && m.report).foldl
          (fun q m => q.take (.markFired m.id a p d t (min (m.fires + 1) 65535) p) s.tick) q := by
    intro q
    refine List.foldl_ext _ _ _ fun q m hm => ?_
    obtain ⟨-, hm⟩ := List.mem_filter.mp hm
    obtain ⟨rfl, -⟩ := (selects_step_iff a p d t m).mp (Bool.and_eq_true _ _ ▸ hm).1
    rfl
  exact congrArg Host.Outcome.next (congrArg (fun q => ({ s.setAxis a { s.axis a with arrivals := rest } with
    pauses := s.pauses.tail
    mks := { s.mks with
      marks := s.mks.marks.map fun m =>
        if (Arrival.step p d t).selects a m then m.firedAt t (s.axis a).config else m.bandChecked (s.axis a).config a p }
    rpq := q } : State)) (hreports s.rpq))

/-! ### A firing with one line entry -/

/-- A line entry neither reads nor writes the mark table and the Action Unit (R73). -/
theorem State.lineAction_within (s : State) (c : ActionContext) (n : LineNo) (r : LineRequest) (k : MarkScheduler) (x : Option ActionContext) :
    ({ s with mks := k, acu := x } : State).lineAction c n r = { s.lineAction c n r with mks := k, acu := x } := by
  unfold State.lineAction
  change (match (s.line n).request .mark r s.tick with | .taken l => _ | .busy l => _ | .notOwner => _) = _
  cases (s.line n).request .mark r s.tick <;> rfl

theorem State.lineAction_axes (s : State) (c : ActionContext) (n : LineNo) (r : LineRequest) : (s.lineAction c n r).axes = s.axes := by
  unfold State.lineAction
  cases (s.line n).request .mark r s.tick <;> rfl

theorem Mark.bandCheck_of_armed {m : Mark} (h : m.state = .armed) (c : AxisConfig) (p : Int) : m.bandCheck c p = m := by
  rcases m.bandCheck_cases c p with heq | ⟨-, hs, -⟩
  · exact heq
  · rw [h] at hs
    cases hs

/-- The context of a firing whose list is one entry (R70). -/
def Mark.loneContext (m : Mark) (t : Tick) (x : Action) : ActionContext := { mark := m.id, tick := t, list := [x], index := 0 }

theorem putRecord_singleton {x y : Mark} (h : y.id = x.id) : putRecord y [x] = [y] := putRecord_putRecord h []

theorem findMark_singleton (m : Mark) : findMark [m] m.id = some m := by simp [findMark]

/-- The end of the firing of the one mark of the table, without a report (R56, R57). -/
theorem State.endFiring_singleton {s : State} {r : ArrivalRecord} {m : Mark} (hr : s.mks.arrival = some r) (hm : s.mks.marks = [m])
    (hd : m.id ∉ r.disarmed) (hreport : m.report = false) (p : Int) (d : Direction) (t : Tick) :
    s.endFiring m.id p d t =
      { s with mks := { s.mks with marks := [m.fired (s.axis m.axis).config], arrival := some { r with firing := none } } } := by
  rw [State.endFiring_eq hr (by rw [State.mark, hm]; exact findMark_singleton m), if_neg hd, hm, putRecord_singleton (Mark.fired_id m _), hreport]
  rfl

/-- A firing whose list has one entry left (R54, R70). -/
theorem State.completeFiring_lone {s : State} {id : MarkId} {c : ActionContext} {x : Action} (hf : s.firing = some id) (hc : s.acu = some c)
    (hlist : c.list.drop c.index = [x]) (p : Int) (d : Direction) (t : Tick) :
    s.completeFiring p d t = ((s.takeEntry c x).setAcu none).endFiring id p d t := by
  rw [State.completeFiring, hf]
  dsimp only
  rw [State.runContext, hc]
  dsimp only
  rw [hlist, State.runEntries, State.setAcu_self hc]
  rfl

/-- A step arrival in RUN, taken to its end, that selects the one mark of the table, whose list is one line entry (R54, R55, R73). -/
theorem State.lineEntry_settled {s : State} {m : Mark} {x : Action} {n : LineNo} {q : LineRequest} (hq : s.quiet) (hst : s.rnc.state = .run)
    (hmarks : s.mks.marks = [m]) (harmed : m.state = .armed) (hqual : m.qual = .either) (hreport : m.report = false)
    (hactions : m.actions = [x]) (hx : x.lineRequest = some (n, q)) (d : Direction) (t : Tick) :
    (s.beginStepArrival m.axis m.target d t).settled =
      { s.lineAction (m.loneContext t x) n q with
        mks := { s.mks with marks := [m.firedAt t (s.axis m.axis).config] }
        acu := none } := by
  obtain ⟨hn, hc⟩ := hq
  have hband : (s.bandPhase m.axis m.target).mks.marks = [m] := by
    change s.mks.marks.map _ = _
    rw [hmarks, List.map_singleton, if_pos rfl, Mark.bandCheck_of_armed harmed]
  have hfire : (s.stepRecord m.axis m.target d t).fireList = [m.id] := by
    refine (if_pos hst).trans ?_
    rw [State.selectPhase, hband]
    simp [harmed, Qualifier.accepts, hqual]
  have hcontext : m.context t = some (m.loneContext t x) := by simp [Mark.context, hactions, Mark.loneContext]
  have hbegin : State.beginTurn (State.setFireList ((s.bandPhase m.axis m.target).setArrival (some (s.stepRecord m.axis m.target d t))) []) m.id t =
      { s with
        mks := { s.mks with
          marks := [m.counted t]
          arrival := some { s.stepRecord m.axis m.target d t with fireList := [], firing := some m.id } }
        acu := some (m.loneContext t x) } := by
    have harrival : (State.setFireList ((s.bandPhase m.axis m.target).setArrival (some (s.stepRecord m.axis m.target d t))) []).mks.arrival =
        some { s.stepRecord m.axis m.target d t with fireList := [] } := rfl
    have hfound : (State.setFireList ((s.bandPhase m.axis m.target).setArrival (some (s.stepRecord m.axis m.target d t))) []).mark m.id =
        some m := by
      change findMark (s.bandPhase m.axis m.target).mks.marks m.id = some m
      rw [hband]
      exact findMark_singleton m
    rw [State.beginTurn_eligible harrival hfound harmed List.not_mem_nil, State.beginFiring_eq harrival, hcontext]
    change ({ s with
        mks := { s.mks with marks := putRecord (m.counted t) (s.bandPhase m.axis m.target).mks.marks, arrival := _ }, acu := _ } : State) = _
    rw [hband, putRecord_singleton (show (m.counted t).id = m.id from rfl)]
  rw [State.beginStepArrival_settled hc, hfire, State.firePhase, hbegin, State.firePhase,
    State.completeFiring_lone (c := m.loneContext t x) (x := x) rfl rfl rfl, State.takeEntry_line hx, State.lineAction_within]
  have hend := State.endFiring_singleton (m := m.counted t)
    (s := { s.lineAction (m.loneContext t x) n q with
      mks := { s.mks with
        marks := [m.counted t], arrival := some { s.stepRecord m.axis m.target d t with fireList := [], firing := some m.id } }
      acu := none })
    rfl rfl List.not_mem_nil hreport m.target d t
  refine (congrArg (State.setArrival · none) hend).trans ?_
  dsimp only [State.setArrival, State.setMks, State.axis]
  rw [State.lineAction_axes, ← hn]
  rfl

/-- Settles O16: on a MARK-owned line the entry is taken, on a HOST-owned line it is skipped with its report. -/
theorem firedMarkDrivesItsLine : Obligations.FiredMarkDrivesItsLine := by
  intro s a d t rest m n act l harrivals hst hq hu hmarks ha harmed hqual hreport hactions hact
  subst ha
  have hentry : ∃ q, act.lineRequest = some (n, q) ∧ ((s.line n).owner = .mark → (s.line n).request .mark q s.tick = .taken l) := by
    rcases hact with ⟨v, rfl, rfl⟩ | ⟨rfl, rfl⟩ | ⟨v, w, rfl, hfree, rfl⟩
    · exact ⟨_, rfl, fun ho => by rw [← ho]; exact Line.request_set _ _ _⟩
    · exact ⟨_, rfl, fun ho => by rw [← ho]; exact Line.request_toggle _ _⟩
    · exact ⟨_, rfl, fun ho => by rw [← ho, Line.request_pulse]; exact Line.pulseRequest_taken hfree _ _ _⟩
  obtain ⟨q, hx, htaken⟩ := hentry
  obtain ⟨hn, hc⟩ := hq
  have hsettled := State.lineEntry_settled (s := s.withoutHead m.axis rest) ⟨hn, hc⟩ hst hmarks harmed hqual hreport hactions hx d t
  rw [State.withoutHead_config, ← show s.acu = none from hc] at hsettled
  refine ⟨_, rfl, fun ho => ?_, fun ho => ?_⟩ <;>
    refine (exec_stepArrival_unpaused harrivals hn hu).trans (congrArg Host.Outcome.next (hsettled.trans ?_))
  · rw [State.lineAction_of_taken (s := s.withoutHead m.axis rest) (htaken ho)]
    rfl
  · rw [State.lineAction_of_host (s := s.withoutHead m.axis rest) ho]
    rfl

end Sys2Proof.Machine
end

section
/-! The stages of a step arrival (O17), and its end wherever it pauses (O18). -/

namespace Sys2Proof.Machine

/-! ### What a stage is -/

/-- A step arrival in progress, said as its turns. -/
theorem State.turns_of_step {s : State} {r : ArrivalRecord} {p : Int} {d : Direction} {t : Tick} (hr : s.mks.arrival = some r)
    (hx : r.arrival = .step p d t) : s.turns = some (r.axis, .step p d t, r.run, r.fireList, r.firing) := by
  rw [State.turns, hr, Option.map_some, hx]

section
variable {s : State} {r : ArrivalRecord} {p : Int} {d : Direction} {t : Tick}

theorem State.stage_nextEntry (hr : s.mks.arrival = some r) (hx : r.arrival = .step p d t) {c : ActionContext} (hc : s.acu = some c) :
    s.stage = s.nextEntry c := by
  rw [State.stage_of_turns (State.turns_of_step hr hx), hc]

theorem State.stage_endFiring (hr : s.mks.arrival = some r) (hx : r.arrival = .step p d t) (hc : s.acu = none) {id : MarkId}
    (hf : r.firing = some id) : s.stage = s.endFiring id p d t := by
  rw [State.stage_of_turns (State.turns_of_step hr hx), hc, hf]

theorem State.stage_beginTurn (hr : s.mks.arrival = some r) (hx : r.arrival = .step p d t) (hc : s.acu = none) (hf : r.firing = none)
    {id : MarkId} {more : List MarkId} (hl : r.fireList = id :: more) : s.stage = (s.setFireList more).beginTurn id t := by
  rw [State.stage_of_turns (State.turns_of_step hr hx), hc, hf, hl]

theorem State.stage_done (hr : s.mks.arrival = some r) (hx : r.arrival = .step p d t) (hc : s.acu = none) (hf : r.firing = none)
    (hl : r.fireList = []) : s.stage = s.setArrival none := by
  rw [State.stage_of_turns (State.turns_of_step hr hx), hc, hf, hl]

end

theorem State.nextEntry_eq {s : State} {c : ActionContext} {done more : List Action} {x : Action} (hlist : c.list = done ++ x :: more)
    (hindex : c.index = done.length) :
    s.nextEntry c = { s.takeEntry c x with acu := if more = [] then none else some { c with index := c.index + 1 } } := by
  have hdrop : c.list.drop c.index = x :: more := by rw [hlist, hindex, List.drop_left]
  rw [State.nextEntry, hdrop]
  cases more <;> rfl

/-! ### What a stage leaves of the arrival record -/

namespace State.arrivalFrom

theorem armMark (s : State) (id : MarkId) : s.arrivalFrom (s.armMark id).1 := by
  unfold State.armMark
  split
  · exact .refl s
  · dsimp only
    split
    · exact .refl s
    · split <;> exact .of_eq rfl

theorem disarmMark (s : State) (id : MarkId) : s.arrivalFrom (s.disarmMark id).1 := by
  unfold State.disarmMark
  split
  · exact .refl s
  · exact .map rfl fun r _ => { ArrivalRecord.Onward.refl r with disarmed := List.subset_cons_self _ _ }

theorem armEach (ids : List MarkId) (s : State) : s.arrivalFrom (s.armEach ids).1 := by
  induction ids generalizing s with
  | nil => exact .refl s
  | cons id rest ih => exact (armMark s id).trans (ih _)

theorem disarmEach (ids : List MarkId) (s : State) : s.arrivalFrom (s.disarmEach ids).1 := by
  induction ids generalizing s with
  | nil => exact .refl s
  | cons id rest ih => exact (disarmMark s id).trans (ih _)

theorem lineAction (s : State) (c : ActionContext) (n : LineNo) (r : LineRequest) : s.arrivalFrom (s.lineAction c n r) := by
  unfold State.lineAction
  cases (s.line n).request .mark r s.tick <;> exact .of_eq rfl

theorem takeEntry (s : State) (c : ActionContext) (x : Action) : s.arrivalFrom (s.takeEntry c x) := by
  cases x with
  | pulse n v w => exact lineAction s c n _
  | set n v => exact lineAction s c n _
  | toggle n => exact lineAction s c n _
  | snapshot mask =>
    refine .of_eq ?_
    simp only [State.takeEntry, State.snapshotAction]
    split
    · rfl
    · split
      · rw [State.storeCapture_eq]
      · rw [State.loseCapture_eq]
        rfl
  | preset a v =>
    simp only [State.takeEntry, State.presetAction]
    split
    · exact .of_eq rfl
    · split
      · refine .map rfl fun r _ => ?_
        split
        · exact { ArrivalRecord.Onward.refl r with }
        · exact .refl r
      · exact .of_eq rfl
  | armGroup g => exact armEach _ s
  | disarmGroup g => exact disarmEach _ s

theorem nextEntry (s : State) (c : ActionContext) : s.arrivalFrom (s.nextEntry c) := by
  unfold State.nextEntry
  split
  · exact .of_eq rfl
  · exact (takeEntry s c _).trans (.of_eq rfl)

end State.arrivalFrom

/-- The arrival record after a stage: its turns from the front, and no disarming forgotten (R53). -/
structure ArrivalRecord.Goes (r x : ArrivalRecord) : Prop where
  fireList : x.fireList = r.fireList ∨ ∃ id, r.fireList = id :: x.fireList
  disarmed : ∀ id ∈ r.disarmed, id ∈ x.disarmed

theorem State.nextEntry_goes {s : State} {r x : ArrivalRecord} (hr : s.mks.arrival = some r) {c : ActionContext}
    (hx : (s.nextEntry c).mks.arrival = some x) : r.Goes x := by
  have hturns := (s.nextEntry_frame c).2
  rw [State.turns, State.turns, hr, hx, Option.map_some, Option.map_some, Option.some.injEq] at hturns
  obtain ⟨r', hr', honward⟩ := State.arrivalFrom.nextEntry s c x hx
  obtain rfl : r = r' := Option.some.inj (hr.symm.trans hr')
  exact ⟨.inl (congrArg (·.2.2.2.1) hturns), honward.disarmed⟩

/-- The end of a firing changes no record but that of the mark firing (R55 to R58). -/
theorem State.endFiring_goes {s : State} {r x : ArrivalRecord} (hr : s.mks.arrival = some r) {id : MarkId} {p : Int} {d : Direction} {t : Tick}
    (hx : (s.endFiring id p d t).mks.arrival = some x) : r.Goes x := by
  have heq : (s.endFiring id p d t).mks.arrival = some { r with firing := none } := by
    cases hm : s.mark id with
    | none =>
      rw [State.endFiring, hm]
      dsimp only
      rw [State.setFiring_eq hr]
      rfl
    | some m => rw [State.endFiring_eq hr hm]
  obtain rfl := Option.some.inj (heq.symm.trans hx)
  exact ⟨.inl rfl, fun _ h => h⟩

/-- A turn is taken from the front of the fire list (R53). -/
theorem State.beginTurn_goes {s : State} {r x : ArrivalRecord} (hr : s.mks.arrival = some r) {id : MarkId} {more : List MarkId}
    (hl : r.fireList = id :: more) {t : Tick} (hx : ((s.setFireList more).beginTurn id t).mks.arrival = some x) : r.Goes x := by
  have harrival := State.setFireList_arrival hr more
  have heq : x = { r with fireList := more } ∨ ∃ m : Mark, x = { r with fireList := more, firing := some m.id } := by
    by_cases h : (∀ m, (s.setFireList more).mark id = some m → m.state ≠ .armed) ∨ id ∈ r.disarmed
    · rw [State.beginTurn_passed harrival h, harrival] at hx
      exact .inl (Option.some.inj hx).symm
    · push Not at h
      obtain ⟨⟨m, hm, harmed⟩, hd⟩ := h
      rw [State.beginTurn_eligible harrival hm harmed hd, State.beginFiring_eq harrival] at hx
      exact .inr ⟨m, (Option.some.inj hx).symm⟩
  rcases heq with rfl | ⟨m, rfl⟩ <;> exact ⟨.inr ⟨id, hl⟩, fun _ h => h⟩

theorem State.stage_goes {s : State} {r x : ArrivalRecord} {p : Int} {d : Direction} {t : Tick} (hr : s.mks.arrival = some r)
    (hstep : r.arrival = .step p d t) (hx : s.stage.mks.arrival = some x) : r.Goes x := by
  cases hc : s.acu with
  | some c =>
    rw [State.stage_nextEntry hr hstep hc] at hx
    exact State.nextEntry_goes hr hx
  | none =>
    cases hf : r.firing with
    | some id =>
      rw [State.stage_endFiring hr hstep hc hf] at hx
      exact State.endFiring_goes hr hx
    | none =>
      cases hl : r.fireList with
      | nil =>
        rw [State.stage_done hr hstep hc hf hl] at hx
        cases hx
      | cons id more =>
        rw [State.stage_beginTurn hr hstep hc hf hl] at hx
        exact State.beginTurn_goes hr hl hx

/-! ### An arrival begun and paused -/

/-- STEP_ARRIVAL with a number of stages listed goes on with the arrival in progress of its axis (R49). -/
theorem exec_stepArrival_goesOn {s : State} {a : Axis} {n : Nat} {paused : List (Option Nat)} (hp : s.pauses = some n :: paused)
    {r : ArrivalRecord} (hr : s.mks.arrival = some r) (ha : r.axis = a) :
    exec (.stepArrival a.val) s = .next (({ s with pauses := paused } : State).stages n) := by
  rw [exec_stepArrival, onAxis_val, hp, State.stepArrival, show (s.setPauses (List.tail (some n :: paused))).mks.arrival = some r from hr]
  dsimp only
  rw [if_pos ha]
  rfl

/-- STEP_ARRIVAL with a number of stages listed and no arrival in progress begins the one at the head of the order (R49). -/
theorem exec_stepArrival_paused {s : State} {a : Axis} {p : Int} {d : Direction} {t : Tick} {rest : List Arrival} {n : Nat}
    {paused : List (Option Nat)} (hp : s.pauses = some n :: paused) (h : (s.axis a).arrivals = .step p d t :: rest)
    (hn : s.mks.arrival = none) : exec (.stepArrival a.val) s = .next (((s.withoutHead a rest).beginStepArrival a p d t).stages n) := by
  have htake : exec (.stepArrival a.val) s = .next (State.takeStepArrival { s with pauses := s.pauses.tail } a (some n)) := by
    rw [exec_stepArrival, onAxis_val, hp, State.stepArrival, show (s.setPauses (List.tail (some n :: paused))).mks.arrival = none from hn]
    rfl
  rw [htake, State.takeStepArrival_head (s := { s with pauses := s.pauses.tail }) h]
  rfl

/-- The fire list of an arrival begun is the only ascending list of the marks that meet the conditions of R52 in RUN. -/
theorem State.stepRecord_fireList {s : State} {a : Axis} {p : Int} {d : Direction} (t : Tick) {ids : List MarkId} (hlaw : s.marksLawful)
    (hsorted : ids.Pairwise (· < ·))
    (hids : ∀ id, id ∈ ids ↔ s.rnc.state = .run ∧ ∃ m ∈ s.mks.marks, m.id = id ∧ (Arrival.step p d t).selects a m = true) :
    (s.stepRecord a p d t).fireList = ids := by
  obtain ⟨htable, hmarks⟩ := hlaw
  cases hst : s.rnc.state with
  | hold =>
    have hnil : ids = [] := List.eq_nil_iff_forall_not_mem.mpr fun id hid => by
      have hrun := ((hids id).mp hid).1
      rw [hst] at hrun
      cases hrun
    rw [hnil]
    exact if_neg (by rw [hst]; decide)
  | run =>
    have hlist : (s.stepRecord a p d t).fireList = (s.mks.marks.filter ((Arrival.step p d t).selects a)).map (·.id) := by
      rw [← State.selected_bandPhase hmarks]
      exact if_pos hst
    rw [hlist]
    refine List.Pairwise.eq_of_mem_iff (htable.sublist (List.Sublist.map _ List.filter_sublist)) hsorted fun id => ?_
    rw [hids, hst]
    simp only [List.mem_map, List.mem_filter, true_and]
    exact exists_congr fun m => ⟨fun ⟨⟨hm, hsel⟩, he⟩ => ⟨hm, he, hsel⟩, fun ⟨hm, he, hsel⟩ => ⟨⟨hm, hsel⟩, he⟩⟩

/-- Settles O17: STEP_ARRIVAL by whether an arrival is in progress, and a stage by what the arrival still has to do. -/
theorem stepArrivalGoesOnByStages : Obligations.StepArrivalGoesOnByStages := by
  refine ⟨fun s a n paused hp => ⟨fun r hr ha => exec_stepArrival_goesOn hp hr ha, ?_⟩, fun s => ⟨rfl, fun n => rfl⟩, fun s h => ?_, ?_⟩
  · intro p d t rest ids hn harrivals hlaw hsorted hids
    have hfire : ((s.withoutHead a rest).stepRecord a p d t).fireList = ids := by
      refine State.stepRecord_fireList t (State.withoutHead_marksLawful hlaw a rest) hsorted fun id => ?_
      simp only [selects_step_iff]
      exact hids id
    have hrecord : (s.withoutHead a rest).stepRecord a p d t =
        { axis := a, arrival := .step p d t, run := s.rnc.state, fireList := ids, firing := none, disarmed := [], reads := p } := by
      rw [← hfire]
      rfl
    rw [exec_stepArrival_paused hp harrivals hn, State.beginStepArrival_record, hrecord, State.withoutHead_bandPhase, State.withoutHead, hp]
    rfl
  · rw [State.stage, h]
  · intro s r p d t put hr hx hput
    refine ⟨fun c done more x hc hlist hindex => ?_, fun id m u hc hf hm hu => ?_, fun id more hc hf hl => ⟨fun m hm harmed hd => ?_, fun hpass => ?_⟩,
      fun hc hf hl => State.stage_done hr hx hc hf hl, fun x hstage => ?_⟩
    · rw [State.stage_nextEntry hr hx hc, State.nextEntry_eq hlist hindex]
    · rw [State.stage_endFiring hr hx hc hf, State.endFiring_eq hr hm, hput, hu]
      cases m.report <;> rfl
    · have harrival := State.setFireList_arrival hr more
      rw [State.stage_beginTurn hr hx hc hf hl, State.beginTurn_eligible harrival hm harmed hd, State.beginFiring_eq harrival, hput]
      rfl
    · rw [State.stage_beginTurn hr hx hc hf hl, State.beginTurn_passed (State.setFireList_arrival hr more) hpass, hput, State.setFireList_eq hr]
      rfl
    · obtain ⟨hlist, hd⟩ := State.stage_goes hr hx hstage
      exact ⟨hlist, hd⟩

/-! ### Wherever it pauses -/

/-- What an arrival leaves alone, written into the state (R49 to R58). -/
theorem State.sameLink.eq {s t : State} (h : s.sameLink t) :
    t = { s with axes := t.axes, mks := { t.mks with groupArms := s.mks.groupArms }, acu := t.acu, lines := t.lines, cpq := t.cpq, rpq := t.rpq } := by
  obtain ⟨hpending, hpauses, htick, hstrobes, hrnc, hlrx, hltx, hcmi, hfree, harms⟩ := h
  rw [← hpending, ← hpauses, ← htick, ← hstrobes, ← hrnc, ← hlrx, ← hltx, ← hcmi, ← hfree, ← harms]

/-- STEP_ARRIVAL with no pause listed takes the arrival in progress of its axis to its end (R49). -/
theorem exec_stepArrival_settles {s : State} {a : Axis} {r : ArrivalRecord} (hr : s.mks.arrival = some r) (ha : r.axis = a) (hu : s.unpaused) :
    exec (.stepArrival a.val) s = .next ({ s with pauses := s.pauses.tail } : State).settled := by
  rw [exec_stepArrival, onAxis_val, show s.pauses.head?.join = none from hu, State.stepArrival,
    show (s.setPauses s.pauses.tail).mks.arrival = some r from hr]
  dsimp only
  rw [if_pos ha]
  rfl

/-- STEP_ARRIVAL of another axis takes the arrival in progress to its end first (R49). -/
theorem exec_stepArrival_other {s u : State} {a : Axis} {r : ArrivalRecord} (hr : s.mks.arrival = some r) (ha : r.axis ≠ a)
    (hu : u = ({ s with pauses := s.pauses.tail } : State).settled) :
    exec (.stepArrival a.val) s = exec (.stepArrival a.val) { u with pauses := s.pauses } := by
  obtain ⟨hframe, hn⟩ := ({ s with pauses := s.pauses.tail } : State).settled_frame
  rw [← hu] at hframe hn
  obtain ⟨-, hpauses, -⟩ := hframe
  rw [exec_stepArrival, exec_stepArrival, onAxis_val, onAxis_val]
  refine congrArg Host.Outcome.next ?_
  have hleft : (s.setPauses s.pauses.tail).stepArrival s.pauses.head?.join a = u.takeStepArrival a s.pauses.head?.join := by
    rw [State.stepArrival, show (s.setPauses s.pauses.tail).mks.arrival = some r from hr, hu]
    dsimp only
    rw [if_neg ha]
    rfl
  have hright : (u.setPauses s.pauses.tail).stepArrival s.pauses.head?.join a = u.takeStepArrival a s.pauses.head?.join := by
    rw [State.stepArrival, show (u.setPauses s.pauses.tail).mks.arrival = none from hn]
    dsimp only
    rw [← show u.pauses = s.pauses.tail from hpauses]
    rfl
  exact hleft.trans hright.symm

/-- The arrival in progress, its action list and every mark are as they were. -/
structure SameArrival (s t : State) : Prop where
  arrival : t.mks.arrival = s.mks.arrival
  acu : t.acu = s.acu
  marks : t.mks.marks = s.mks.marks

theorem SameArrival.of_axisMotion {s t : State} (h : s.AxisMotion t) : SameArrival s t := by
  rw [h.frame]
  exact ⟨rfl, rfl, rfl⟩

theorem SameArrival.of_strobeMotion {s t : State} (h : s.StrobeMotion t) : SameArrival s t := by
  rw [h]
  exact ⟨rfl, rfl, rfl⟩

/-- A command that is not taken before or after a whole arrival reaches no mark (R49). -/
theorem CommandEffect.sameArrival {s t : State} {row : Instr} (h : CommandEffect s row t) (hw : takesWhole row = false) : SameArrival s t := by
  cases h
  case captureNow mask _ =>
    rw [State.storeCapture_eq]
    exact ⟨rfl, rfl, rfl⟩
  case run | hold | configAxis | defineMark | deleteMark | armMarks | disarmMarks | armGroup | disarmGroup | moveMark => cases hw
  all_goals exact ⟨rfl, rfl, rfl⟩

theorem EventEffect.sameArrival {s t : State} {i : Instr} (h : EventEffect s i t) (hw : takesWhole i = false)
    (harrival : ∀ n, i ≠ .stepArrival n ∧ i ≠ .jumpArrival n) (hgroup : i ≠ .strobeGroupArm) (hsilence : i ≠ .silenceTimerExpiry)
    (hsignal : i ≠ .ackTimeoutSignal) (hreset : ∀ p, i ≠ .hardReset p) (hdue : ∀ p, i = .txFrameDone p → s.cmi.resetDue = false) :
    SameArrival s t := by
  cases h
  case filteredSample a la lb lz => exact .of_axisMotion (s.filteredSample_motion a la lb lz)
  case pinSample a la lb lz => exact .of_axisMotion (s.pinSample_motion a la lb lz)
  case timeCount a => exact .of_axisMotion (s.timeCount_motion a)
  case strobeEdge n => exact .of_strobeMotion (s.strobeEdge_motion n)
  case qualified n => exact .of_strobeMotion (s.qualified_motion n)
  case hardReset pins => exact absurd rfl (hreset pins)
  case stepArrival a => exact absurd rfl (harrival a.val).1
  case jumpArrival a => exact absurd rfl (harrival a.val).2
  case strobeGroupArm => exact absurd rfl hgroup
  case signal => exact absurd rfl hsignal
  case signalLoss => exact absurd rfl hsignal
  case silenceLoss => exact absurd rfl hsilence
  case commandReset pins hr =>
    rw [hdue pins rfl] at hr
    cases hr
  case character value mark =>
    obtain ⟨q, c, heq⟩ := s.character_eq value mark
    rw [heq]
    exact ⟨rfl, rfl, rfl⟩
  case executed ho _ ht =>
    rw [State.executedOn, if_neg (by rw [hw]; decide)] at ht
    obtain ⟨harr, hacu, hmarks⟩ := ht.sameArrival hw
    exact ⟨harr, hacu, hmarks⟩
  all_goals exact ⟨rfl, rfl, rfl⟩

/-- Settles O18: the end of an arrival by its stages, the events that take it to its end first, and every other event by its effect. -/
theorem pausedArrivalEndsTheSame : Obligations.PausedArrivalEndsTheSame := by
  refine ⟨fun s => ?_, fun s a r hr => ⟨fun ha hu => exec_stepArrival_settles hr ha hu, fun ha u hu => exec_stepArrival_other hr ha hu, ?_, ?_⟩,
    fun i s t h hw harrival hgroup hsilence hsignal hreset hdue => ?_⟩
  · obtain ⟨hframe, hn⟩ := s.settled_frame
    exact ⟨s.stage_settled, fun n => s.stages_settled n, s.exists_stages_settled, hn, State.settled_of_none, hframe.eq⟩
  · have hjump : ∀ u : State, exec (.jumpArrival a.val) u = .next (u.jumpArrival a) := fun u => onAxis_val a u _
    rw [hjump, hjump, State.jumpArrival, State.jumpArrival, State.settled_settled]
  · have harm : ∀ u : State, exec .strobeGroupArm u = .next u.strobeGroupArm := fun _ => rfl
    rw [harm, harm, State.strobeGroupArm, State.strobeGroupArm, State.settled_settled]
  · obtain ⟨harr, hacu, hmarks⟩ := (exec_effect h).sameArrival hw harrival hgroup hsilence hsignal hreset hdue
    exact ⟨harr, hacu, hmarks⟩

end Sys2Proof.Machine
end

section
/-! Groups armed and disarmed by a strobe and by a command (O20). -/

namespace Sys2Proof.Machine

/-- With no arrival in progress an arming reads the axis's own position (R33). -/
theorem State.positionRead_of_none {s : State} (h : s.mks.arrival = none) : s.positionRead = fun a => (s.axis a).pos := by
  funext a
  rw [State.positionRead, h]

theorem State.armMembers_quiet {s : State} (hids : SortedIds s.mks.marks) (hn : s.mks.arrival = none) (g : GroupNo) :
    (s.armMembers g).1 =
      { s with
        mks := { s.mks with
          marks := s.mks.marks.map fun m : Mark =>
            if m.group = g ∧ m.active = false ∧ m.armable (s.axis m.axis).config (s.axis m.axis).pos = true then
              m.arm (s.axis m.axis).config (s.axis m.axis).pos
            else m } } := State.armMembers_seen hids (State.positionRead_of_none hn) g

theorem State.disarmMembers_quiet {s : State} (hids : SortedIds s.mks.marks) (hn : s.mks.arrival = none) (g : GroupNo) :
    (s.disarmMembers g).1 =
      { s with
        mks := { s.mks with marks := s.mks.marks.map fun m : Mark => if m.group = g then { m with state := .disarmed } else m } } :=
  State.disarmMembers_fst hids hn g

/-! ### The numbers of marks that a group command answers -/

theorem countResult_map (r : MarkResult) (f : Mark → MarkResult) (marks : List Mark) :
    countResult r (marks.map f) = (marks.filter fun m => decide (f m = r)).length := by
  rw [countResult, List.filter_map, List.length_map]
  rfl

/-- The members that group arming tries, each with the result its own record gives (R43). -/
theorem State.armMembers_snd {s : State} (hids : SortedIds s.mks.marks) (g : GroupNo) :
    (s.armMembers g).2 = (s.mks.marks.filter fun m => decide (m.group = g) && m.idle).map fun m => armResult s (some m) := by
  rw [State.armMembers, State.armEach_snd _ (State.members_nodup hids g _) s hids, State.members, List.map_map]
  refine List.map_congr_left fun m hm => ?_
  rw [Function.comp_apply, State.mark, (findMark_eq_some hids).mpr ⟨(List.mem_filter.mp hm).1, rfl⟩]

theorem countResult_armMembers {s : State} (hids : SortedIds s.mks.marks) (g : GroupNo) (r : MarkResult) (q : Mark → Bool)
    (hq : ∀ m : Mark, q m = (decide (m.group = g) && m.idle && decide (armResult s (some m) = r))) :
    countResult r (s.armMembers g).2 = (s.mks.marks.filter q).length := by
  rw [State.armMembers_snd hids, countResult_map, List.filter_filter]
  refine congrArg List.length (List.filter_congr fun m _ => ?_)
  rw [hq, Bool.and_comm]

/-- A DISARMED or SPENT mark is armed when it is armable, and fails the range check when it is not (R33). -/
theorem armResult_idle {s : State} (hn : s.mks.arrival = none) (m : Mark) :
    (m.idle && decide (armResult s (some m) = .ok)) = (!m.active && m.armable (s.axis m.axis).config (s.axis m.axis).pos) ∧
      (m.idle && decide (armResult s (some m) = .outOfRange)) = (!m.active && !m.armable (s.axis m.axis).config (s.axis m.axis).pos) := by
  rw [armResult, State.positionRead_of_none hn, Mark.idle]
  dsimp only
  cases m.active <;> cases m.armable (s.axis m.axis).config (s.axis m.axis).pos <;> decide

theorem countResult_disarmMembers {s : State} (hids : SortedIds s.mks.marks) (hn : s.mks.arrival = none) (g : GroupNo) :
    countResult .ok (s.disarmMembers g).2 =
      (s.mks.marks.filter fun m : Mark => decide (m.group = g) && decide (m.state ≠ MarkState.disarmed)).length := by
  rw [State.disarmMembers, State.disarmEach_snd _ (State.members_nodup hids g _) s hids hn (State.members_defined hids g _), State.members,
    List.map_map, countResult_map]
  simp only [Function.comp_apply, decide_true, List.filter_true]
  rfl

/-! ### STROBE_GROUP_ARM and the commands -/

theorem exec_strobeGroupArm (s : State) : exec .strobeGroupArm s = .next s.strobeGroupArm := rfl

theorem armGroupAnswer_none {n : Byte} (h : 16 ≤ n.toNat) (u : State) : armGroupAnswer [n] u = u.refuse .badArgument := by
  rw [armGroupAnswer, groupOf_none h]

theorem disarmGroupAnswer_none {n : Byte} (h : 16 ≤ n.toNat) (u : State) : disarmGroupAnswer [n] u = u.refuse .badArgument := by
  rw [disarmGroupAnswer, groupOf_none h]

theorem armGroupAnswer_some {n : Byte} {g : GroupNo} (h : n.toNat = g.val) (u : State) :
    armGroupAnswer [n] u =
      (u.armMembers g).1.answer (put16 (countResult .ok (u.armMembers g).2) ++ put16 (countResult .outOfRange (u.armMembers g).2)) := by
  rw [armGroupAnswer, groupOf_eq h]

theorem disarmGroupAnswer_some {n : Byte} {g : GroupNo} (h : n.toNat = g.val) (u : State) :
    disarmGroupAnswer [n] u = (u.disarmMembers g).1.answer (put16 (countResult .ok (u.disarmMembers g).2)) := by
  rw [disarmGroupAnswer, groupOf_eq h]

/-- The row of a COMMAND is that of its payload. -/
theorem Entry.row_eq {e : Entry} {payload : List Byte} {s : State} {rest : List Entry} (h : s.executes e rest) (hp : e.payload = payload) :
    e.row = commandRow payload := by
  rw [Entry.row_of_command h.1.2.1, hp]

/-- A command that is taken before or after a whole arrival is executed on a state with no arrival in progress (R49). -/
theorem State.executesOn_settled {s u : State} {e : Entry} {rest : List Entry} (h : s.executesOn e rest u) (hw : takesWhole e.row = true) :
    u.mks.arrival = none := by
  rw [h.2, if_pos hw]
  exact (State.settled_frame _).2

/-- Settles O20: the strobe's request by the run state, the commands by their argument. -/
theorem groupsReachExactlyTheirMembers : Obligations.GroupsReachExactlyTheirMembers := by
  refine ⟨fun s g rest u popped hu hlaw hpopped => ?_, fun s e rest code n g u h hcode hp => ⟨fun hn => ?_, fun hn hlaw => ⟨fun hc => ?_, fun hc => ?_⟩⟩⟩
  · have hn : u.mks.arrival = none := by rw [hu]; exact s.settled_frame.2
    refine ⟨fun harms hst => ?_, fun harms hst => ?_, State.disarmMembers_quiet hlaw.1 hn g⟩ <;>
      rw [exec_strobeGroupArm, State.strobeGroupArm, ← hu, harms] <;> dsimp only
    · rw [show (u.setMks { u.mks with groupArms := rest }).rnc.state = .hold from hst, hpopped]
      rfl
    · rw [show (u.setMks { u.mks with groupArms := rest }).rnc.state = .run from hst]
      dsimp only
      rw [State.armMembers_quiet (s := u.setMks { u.mks with groupArms := rest }) hlaw.1 hn, hpopped]
      rfl
  · rcases hcode with rfl | rfl
    · have hexec := takeWhole_executesOn armGroupAnswer h (row := .armGroup) (by rw [hp]; rfl) rfl
      rw [hp, show List.tail [0x24, n] = [n] from rfl, armGroupAnswer_none hn] at hexec
      rw [Entry.row_eq h.1 hp]
      exact hexec
    · have hexec := takeWhole_executesOn disarmGroupAnswer h (row := .disarmGroup) (by rw [hp]; rfl) rfl
      rw [hp, show List.tail [0x25, n] = [n] from rfl, disarmGroupAnswer_none hn] at hexec
      rw [Entry.row_eq h.1 hp]
      exact hexec
  · subst hc
    have hnone := State.executesOn_settled h (by rw [Entry.row_eq h.1 hp]; rfl)
    refine ⟨_, _, fun _ => rfl, fun _ => rfl, ?_⟩
    have hexec := takeWhole_executesOn armGroupAnswer h (row := .armGroup) (by rw [hp]; rfl) rfl
    have hcount := armResult_idle hnone
    rw [hp, show List.tail [0x24, n] = [n] from rfl, armGroupAnswer_some hn,
      countResult_armMembers hlaw.1 g .ok _ fun m => by rw [Bool.and_assoc, (hcount m).1, ← Bool.and_assoc],
      countResult_armMembers hlaw.1 g .outOfRange _ fun m => by rw [Bool.and_assoc, (hcount m).2, ← Bool.and_assoc],
      State.armMembers_quiet hlaw.1 hnone] at hexec
    simp only [Bool.and_eq_true, decide_eq_true_eq, Bool.not_eq_true', and_assoc]
    exact hexec
  · subst hc
    have hnone := State.executesOn_settled h (by rw [Entry.row_eq h.1 hp]; rfl)
    have hexec := takeWhole_executesOn disarmGroupAnswer h (row := .disarmGroup) (by rw [hp]; rfl) rfl
    rw [hp, show List.tail [0x25, n] = [n] from rfl, disarmGroupAnswer_some hn, countResult_disarmMembers hlaw.1 hnone,
      State.disarmMembers_quiet hlaw.1 hnone] at hexec
    exact hexec

end Sys2Proof.Machine
end

section
/-! Timers, strobes, the taking of reports, session loss and SYNC (O21, O23, O24, O25, O27, O28). -/

namespace Sys2Proof.Machine

/-! ### Timers -/

theorem exec_pulseEnd (n : LineNo) (s : State) : exec (.pulseEnd n.val) s = .next (s.setLine n ((s.line n).expire s.tick)) := onLine_val n s _

theorem Line.expire_at {l : Line} {p : Pulse} {t : Tick} (hp : l.pulse = some p) (h : p.endTick = t) :
    l.expire t = { l with level := p.level.flip, pulse := none } := by
  rw [Line.expire, hp]
  exact if_pos h

theorem Line.expire_away {l : Line} {t : Tick} (h : ∀ p ∈ l.pulse, p.endTick ≠ t) : l.expire t = l := by
  unfold Line.expire
  cases hp : l.pulse with
  | none => rfl
  | some p => exact if_neg (h p hp)

theorem State.setLine_self (s : State) (n : LineNo) : s.setLine n (s.line n) = s := by
  simp [State.setLine, State.setLines, State.line]

theorem exec_ackTimerExpiry (s : State) :
    exec .ackTimerExpiry s = .next (if s.rpq.ackTimer = some s.tick then s.setRpq (s.rpq.expire s.cmi.params s.tick) else s) := by
  change Host.Outcome.next _ = _
  simp only [due_iff]

/-- What an expiry below the retry limit does to one record (R133). -/
theorem ReportRecord.retried_eq (r : ReportRecord) :
    r.withSend r.send.retried = match r.send with | .awaiting n => { r with send := .resend n } | _ => r := by
  obtain ⟨body, send, created⟩ := r
  cases send <;> rfl

theorem exec_helloBeaconExpiry (s : State) :
    exec .helloBeaconExpiry s =
      .next (if s.cmi.beaconTimer = some s.tick ∧ s.cmi.session ≠ .opened then
        (s.setCmi { s.cmi with beaconTimer := some (beaconEnd s.tick) }).callHello else s) := by
  change Host.Outcome.next _ = _
  simp only [State.beaconExpiry, due_iff]

/-- Settles O21: each timer at its end tick and away from it. -/
theorem timersActAtTheirEndTick : Obligations.TimersActAtTheirEndTick := by
  refine ⟨fun s n => ⟨fun v hp => ?_, fun h => ?_⟩, fun s => ⟨fun h => ?_, fun h hr => ?_, fun h hr => ?_⟩, fun s => ⟨fun h ho => ?_, fun h => ?_⟩⟩
  · rw [exec_pulseEnd, Line.expire_at hp rfl]
    rfl
  · rw [exec_pulseEnd, Line.expire_away h, State.setLine_self]
  · rw [exec_ackTimerExpiry, if_neg h]
  · rw [exec_ackTimerExpiry, if_pos h, ReportQueue.expire, if_pos hr, ReportQueue.retry]
    simp only [ReportRecord.retried_eq]
    rfl
  · rw [exec_ackTimerExpiry, if_pos h, ReportQueue.expire, if_neg (Nat.not_lt.mpr hr)]
    rfl
  · rw [exec_helloBeaconExpiry, if_pos ⟨h, ho⟩]
    rfl
  · rw [exec_helloBeaconExpiry, if_neg]
    exact fun ⟨hb, ho⟩ => h.elim (fun hn => hn hb) ho

/-! ### Strobes -/

theorem exec_strobeEdge (n : StrobeNo) (s : State) : exec (.strobeEdge n.val) s = .next (s.strobeEdge n) := onStrobe_val n s _

theorem exec_qualified (n : StrobeNo) (s : State) : exec (.strobeQualificationExpiry n.val) s = .next (s.qualified n) := onStrobe_val n s _

theorem EdgeSelect.selects_iff (x : EdgeSelect) (edge : Edge) :
    x.selects edge = true ↔ x = .both ∨ (x = .rising ∧ edge = .rising) ∨ (x = .falling ∧ edge = .falling) := by
  cases x <;> cases edge <;> decide

/-- An edge leaves the level held for the other one (R100). -/
theorem Edge.leaving_eq {level after : Level} {edge : Edge}
    (h : level = .low ∧ edge = .rising ∧ after = .high ∨ level = .high ∧ edge = .falling ∧ after = .low) :
    Edge.leaving level = edge ∧ level.flip = after := by
  rcases h with ⟨rfl, rfl, rfl⟩ | ⟨rfl, rfl, rfl⟩ <;> exact ⟨rfl, rfl⟩

/-- A pending record is dropped as a glitch (R102). -/
theorem Strobe.dropped_eq (b : Strobe) :
    b.dropped = { b with record := none, glitches := if b.record.isSome then min (b.glitches + 1) 65535 else b.glitches } := by
  unfold Strobe.dropped
  obtain ⟨config, level, record, glitches⟩ := b
  cases record <;> rfl

/-- The state of a strobe right after an edge (R100, R102). -/
def Strobe.edged (b : Strobe) (after : Level) : Strobe :=
  { b with level := after, record := none, glitches := if b.record.isSome then min (b.glitches + 1) 65535 else b.glitches }

theorem State.strobeEdge_eq {s : State} {n : StrobeNo} {edge : Edge} {after : Level}
    (h : (s.strobe n).level = .low ∧ edge = .rising ∧ after = .high ∨ (s.strobe n).level = .high ∧ edge = .falling ∧ after = .low) :
    s.strobeEdge n =
      if (s.strobe n).config.edges = .both ∨ ((s.strobe n).config.edges = .rising ∧ edge = .rising) ∨
          ((s.strobe n).config.edges = .falling ∧ edge = .falling) then
        (s.setStrobe n ((s.strobe n).edged after)).startQualification n edge
      else s.setStrobe n ((s.strobe n).edged after) := by
  obtain ⟨hedge, hafter⟩ := Edge.leaving_eq h
  unfold State.strobeEdge
  simp only [hedge, hafter, Strobe.dropped_eq, EdgeSelect.selects_iff]
  rfl

theorem State.setStrobe_setStrobe (s : State) (n : StrobeNo) (a b : Strobe) : (s.setStrobe n a).setStrobe n b = s.setStrobe n b := by
  simp [State.setStrobe, State.setStrobes]

/-- Settles O23: an edge that is not selected only drops; a selected one with a qualification time starts it. -/
theorem strobeEdgeStartsOrDropsQualification : Obligations.StrobeEdgeStartsOrDropsQualification := by
  intro s n edge after g h hg
  have hedged : (s.strobe n).edged after = { s.strobe n with level := after, record := none, glitches := g } := by rw [hg, Strobe.edged]
  rw [exec_strobeEdge, State.strobeEdge_eq h, hedged]
  refine ⟨fun hno => by rw [if_neg hno], fun hsel hq => ?_⟩
  rw [if_pos hsel, State.startQualification]
  dsimp only
  rw [State.setStrobe_same, if_neg (show ¬(s.strobe n).config.qual = 0 by omega), State.setStrobe_setStrobe]
  rfl

/-- A strobe event: the capture by whether there is room, and the group arm (R103, R108, R109). -/
theorem State.strobeEvent_eq (s : State) (n : StrobeNo) (edge : Edge) (t : Tick) (positions : List Int) :
    s.strobeEvent n edge t positions =
      { s.offerCapture { source := .strobe n edge, gap := false, tick := t, mask := (s.strobe n).config.mask, positions := positions } with
        mks := { s.mks with groupArms := s.mks.groupArms ++ (s.strobe n).config.armGroup.toList } } := by
  have hmks : ∀ c : Capture, (s.offerCapture c).mks = s.mks := by
    intro c
    rw [State.offerCapture]
    split
    · rw [State.storeCapture_eq]
    · rw [State.loseCapture_eq]
  unfold State.strobeEvent
  dsimp only
  generalize hoffer : s.offerCapture _ = v
  have hv : v.mks = s.mks := by rw [← hoffer, hmks]
  rw [← hv]
  cases (s.strobe n).config.armGroup with
  | none =>
    rw [Option.toList_none, List.append_nil]
  | some g => rfl

theorem State.offerCapture_eq (s : State) (c : Capture) :
    s.offerCapture c = if s.cpq.records.length < 128 then s.storeCapture c else s.loseCapture c := by
  rw [State.offerCapture, CaptureQueue.room]
  simp only [decide_eq_true_eq]
  rfl

/-- The event of a strobe whose state has become `b`, with the record of `b` the same (R103, R108, R109). -/
theorem State.strobeEvent_offers {s u : State} {n : StrobeNo} {b : Strobe} (hb : b.config = (s.strobe n).config) (edge : Edge) (t : Tick)
    (positions : List Int)
    (hu : u = { s.setStrobe n b with mks := { s.mks with groupArms := s.mks.groupArms ++ (s.strobe n).config.armGroup.toList } }) :
    (s.cpq.records.length < 128 →
      (s.setStrobe n b).strobeEvent n edge t positions =
        { u with
          cpq := { s.cpq with
            records := s.cpq.records ++
              [{ source := .strobe n edge, gap := s.cpq.gapPending, tick := t, mask := (s.strobe n).config.mask, positions := positions }]
            gapPending := false, waitingNotice := true }
          rpq := if s.cpq.waitingNotice then s.rpq
            else s.rpq.take (.capturesWaiting (s.cpq.records.length + 1) s.tick) s.tick }) ∧
    (128 ≤ s.cpq.records.length →
      (s.setStrobe n b).strobeEvent n edge t positions =
        { u with
          cpq := { s.cpq with overrun := true, gapPending := true }
          rpq := if s.cpq.overrun then s.rpq else s.rpq.take (.captureOverrun t (.strobe n edge)) s.tick }) := by
  rw [State.strobeEvent_eq, State.setStrobe_same, hb, State.offerCapture_eq, hu]
  refine ⟨fun hroom => ?_, fun hfull => ?_⟩
  · rw [if_pos (show (s.setStrobe n b).cpq.records.length < 128 from hroom), State.storeCapture_eq]
    rfl
  · rw [if_neg (show ¬(s.setStrobe n b).cpq.records.length < 128 from Nat.not_lt.mpr hfull), State.loseCapture_eq]
    rfl

/-- Settles O24: the two events that bring a strobe event about, and the expiry that does not. -/
theorem strobeEventOffersCaptureAndArms : Obligations.StrobeEventOffersCaptureAndArms := by
  refine ⟨fun s n h => ?_, fun s n b edge t positions i u hevent hu => ?_⟩
  · rw [exec_qualified, State.qualified]
    cases hr : (s.strobe n).record with
    | none => rfl
    | some r => exact congrArg Host.Outcome.next (if_neg (h r hr))
  · have hexec : b.config = (s.strobe n).config ∧ exec i s = .next ((s.setStrobe n b).strobeEvent n edge t positions) := by
      rcases hevent with ⟨r, hr, hend, rfl, rfl, rfl, rfl, rfl⟩ | ⟨hq, rfl, hsel, rfl, ⟨after, hlevel, rfl⟩, rfl⟩
      · refine ⟨rfl, ?_⟩
        rw [exec_qualified, State.qualified]
        dsimp only
        rw [hr]
        exact congrArg Host.Outcome.next (if_pos hend)
      · refine ⟨rfl, ?_⟩
        rw [exec_strobeEdge, State.strobeEdge_eq hlevel, if_pos hsel, State.startQualification]
        dsimp only
        rw [State.setStrobe_same, if_pos (show ((s.strobe n).edged after).config.qual = 0 from hq)]
        rfl
    obtain ⟨hb, hexec⟩ := hexec
    rw [hexec]
    obtain ⟨hroom, hfull⟩ := State.strobeEvent_offers hb edge t positions hu
    exact ⟨fun h => congrArg Host.Outcome.next (hroom h), fun h => congrArg Host.Outcome.next (hfull h)⟩

/-! ### Reports -/

theorem ReportQueue.take_disabled {q : ReportQueue} {r : Report} (h : r.kind.enabled q.mask = false) (t : Tick) : q.take r t = q :=
  if_neg (by rw [h]; decide)

theorem ReportQueue.take_enabled {q : ReportQueue} {r : Report} (h : r.kind.enabled q.mask = true) (t : Tick) :
    q.take r t = { q with records := queueReport q.records r t } := if_pos h

/-- Only an unsent OVERFLOW record absorbs a report (R125, R126). -/
theorem ReportRecord.absorb_of_not_fresh {x : ReportRecord} (h : x.freshOverflow = false) (k : ReportKind) (t : Tick) :
    x.absorb k t = none := by
  obtain ⟨body, send, created⟩ := x
  cases body
  case overflow =>
    cases send with
    | unsent => cases h
    | awaiting => rfl
    | resend => rfl
  all_goals rfl

theorem queueReport_append {records : List ReportRecord} (h : records.getLast?.any (·.freshOverflow) = false) (r : Report) (t : Tick) :
    queueReport records r t = records ++ [appendedRecord (decide (records.length < 63)) r t] := by
  have hnone : (records.getLast?.bind fun newest => newest.absorb r.kind t) = none := by
    cases hlast : records.getLast? with
    | none => rfl
    | some x =>
      rw [hlast] at h
      exact ReportRecord.absorb_of_not_fresh h _ _
  rw [queueReport, hnone]
  rfl

/-- Settles O25: the cases of R125 in their order. -/
theorem reportIsMaskedAbsorbedAppendedOrOverflows : Obligations.ReportIsMaskedAbsorbedAppendedOrOverflows := by
  intro q r t
  refine ⟨fun st c u hr => by rw [hr]; rfl, fun h => ReportQueue.take_disabled h t, fun h => ⟨fun older k kinds u born hq => ?_, fun hnew hroom => ?_,
    fun hnew hfull => ?_⟩⟩
  · rw [ReportQueue.take_enabled h, queueReport, hq, List.getLast?_concat, List.dropLast_concat]
    rfl
  · rw [ReportQueue.take_enabled h, queueReport_append hnew, decide_eq_true hroom]
    rfl
  · rw [ReportQueue.take_enabled h, queueReport_append hnew, decide_eq_false (Nat.not_lt.mpr hfull)]
    rfl

/-! ### Session loss -/

theorem vector_ext {α : Type} {n : Nat} {v w : Vector α n} (h : ∀ i : Fin n, v[i.val] = w[i.val]) : v = w :=
  Vector.ext fun i hi => h ⟨i, hi⟩

theorem mapUnits_driveSafe {u : State} {lines : Vector Line 16}
    (h : ∀ n : LineNo, lines[n.val] = { u.line n with level := (u.line n).safe, pulse := none }) : mapUnits Line.driveSafe u.lines = lines := by
  refine vector_ext fun n => ?_
  rw [h n, mapUnits_getElem]
  rfl

/-- Settles O27: the two events, each by whether it makes a session loss. -/
theorem sessionLossEntersHold : Obligations.SessionLossEntersHold := by
  intro s u cause lines lost hlines hlost
  have hloss : ∀ v : State, u = v.settled → u.tick = s.tick → v.loseSession cause = lost := by
    intro v hv htick
    rw [State.loseSession_eq, ← hv, mapUnits_driveSafe hlines, htick, hlost]
    rfl
  have hsilence : ∀ v : State, exec .silenceTimerExpiry v =
      .next (if v.cmi.silenceTimer = some v.tick ∧ v.cmi.session = .opened then v.loseSession .linkSilent else v) := by
    intro v
    change Host.Outcome.next _ = _
    simp only [State.silenceExpiry, due_iff]
  have hsignal : exec .ackTimeoutSignal s = .next s.ackTimeoutSignal := rfl
  refine ⟨fun ho ht hu hc => ?_, fun h => ?_, fun k hk ho hx hu hc => ?_, fun k hk h => ?_, fun hk => ?_⟩
  · rw [hsilence, if_pos ⟨ht, ho⟩, ← hc, hloss s hu (by rw [hu]; exact s.settled_frame.1.2.2.1)]
  · rw [hsilence, if_neg fun ⟨ht, ho⟩ => h.elim (fun hn => hn ht) fun hn => hn ho]
  · rw [hsignal, State.ackTimeoutSignal, hk]
    dsimp only
    rw [if_pos ⟨ho, hx⟩, ← hc]
    exact congrArg Host.Outcome.next (hloss _ hu (by rw [hu]; exact (State.settled_frame _).1.2.2.1))
  · rw [hsignal, State.ackTimeoutSignal, hk]
    dsimp only
    rw [if_neg]
    · rfl
    · exact fun ⟨ho, hx⟩ => h.elim (fun hn => hn ho) fun hn => by rw [hn] at hx; cases hx
  · rw [hsignal, State.ackTimeoutSignal, hk]

/-! ### SYNC -/

/-- Settles O28: the SYNC entry is the one taken, and the session is opened on the state without it. -/
theorem syncOpensSession : Obligations.SyncOpensSession := by
  intro s e rest hq hk hs
  have hrow : e.row = .sync := by rw [Entry.row, hk]
  have hentry : s.entryFor .sync = some e := by
    rw [← hrow]
    exact State.entryFor_row hq hs
  have hexec : exec .sync s = .next s.dropEntry.openSession := by
    change Host.Outcome.next _ = _
    rw [hentry]
  rw [hexec, State.dropEntry_eq hq, State.openSession]
  rfl

end Sys2Proof.Machine
end

section
/-! The taking of a COMMAND said for every row at once (O29), the lengths of commands (O30), and the commands that only read (O31). -/

namespace Sys2Proof.Machine

/-! ### The answer of a row to its operands -/

/-- What the command of a row answers to its operands (Table 11-2). -/
def operandsAnswer : Instr → Option (List Byte → State → Answer)
  | .ping => some pingAnswer
  | .getInfo => some getInfoAnswer
  | .setLink => some setLinkAnswer
  | .getStatus => some getStatusAnswer
  | .getLinkStats => some getLinkStatsAnswer
  | .maskReports => some maskReportsAnswer
  | .resetPart => some resetPartAnswer
  | .run => some runAnswer
  | .hold => some holdAnswer
  | .configAxis => some configAxisAnswer
  | .presetAxis => some presetAxisAnswer
  | .readAxes => some readAxesAnswer
  | .clearAxisFault => some clearAxisFaultAnswer
  | .homeAxis => some homeAxisAnswer
  | .defineMark => some defineMarkAnswer
  | .deleteMark => some deleteMarkAnswer
  | .armMarks => some armMarksAnswer
  | .disarmMarks => some disarmMarksAnswer
  | .armGroup => some armGroupAnswer
  | .disarmGroup => some disarmGroupAnswer
  | .moveMark => some moveMarkAnswer
  | .readMark => some readMarkAnswer
  | .listMarks => some listMarksAnswer
  | .configLine => some configLineAnswer
  | .driveLine => some driveLineAnswer
  | .readLines => some readLinesAnswer
  | .configStrobe => some configStrobeAnswer
  | .readStrobes => some readStrobesAnswer
  | .captureNow => some captureNowAnswer
  | .readCaptures => some readCapturesAnswer
  | .flushCaptures => some flushCapturesAnswer
  | _ => none

theorem exec_operands {row : Instr} {answer : List Byte → State → Answer} (h : operandsAnswer row = some answer) (s : State) :
    exec row s = if takesWhole row then takeWhole row answer s else takeNamed row answer s := by
  cases row <;> simp only [operandsAnswer, Option.some.injEq, reduceCtorEq] at h <;> subst h <;> rfl

/-- The state with an answer given to a COMMAND. -/
def Answer.reply (a : Answer) (e : Entry) : State := a.state.answered e a.status a.data

theorem State.answer_reply (u : State) (data : List Byte) (e : Entry) : (u.answer data).reply e = u.answered e .ok data := rfl

section
variable {s u : State} {e : Entry} {rest : List Entry} {code : Byte} {operands : List Byte} {row : Instr}
  {answer : List Byte → State → Answer}

theorem commandRow_of_code (hp : e.payload = code :: operands) (hc : commandOf code = some row) : commandRow e.payload = row := by
  rw [hp, commandRow, hc, Option.getD_some]

theorem Entry.row_of_code (h : s.executes e rest) (hp : e.payload = code :: operands) (hc : commandOf code = some row) : e.row = row :=
  (Entry.row_of_command h.1.2.1).trans (commandRow_of_code hp hc)

/-- A command executed answers its operands on the state it is executed on (R156). -/
theorem exec_answers (h : s.executesOn e rest u) (hp : e.payload = code :: operands) (hc : commandOf code = some row)
    (ha : operandsAnswer row = some answer) : exec row s = .next ((answer operands u).reply e) := by
  have hrow := commandRow_of_code hp hc
  have htail : e.payload.tail = operands := by rw [hp, List.tail_cons]
  rw [exec_operands ha]
  split
  next hw => rw [takeWhole_executesOn answer h hrow hw, htail]; rfl
  next hw => rw [takeNamed_executesOn answer h hrow (Bool.eq_false_iff.mpr hw), htail]; rfl

/-- A command that is not taken before or after a whole arrival is executed on the state without its entry. -/
theorem State.executesOn_named (h : s.executes e rest) (hw : takesWhole e.row = false) : s.executesOn e rest (s.withInbound rest) :=
  ⟨h, by rw [if_neg (by rw [hw]; decide)]⟩

theorem exec_answers_named (h : s.executes e rest) (hp : e.payload = code :: operands) (hc : commandOf code = some row)
    (hw : takesWhole row = false) (ha : operandsAnswer row = some answer) :
    exec row s = .next ((answer operands (s.withInbound rest)).reply e) :=
  exec_answers (State.executesOn_named h (by rw [Entry.row_of_code h hp hc, hw])) hp hc ha

end

/-! ### Commands not executed -/

theorem exec_row {s : State} {e : Entry} {rest : List Entry} (h : s.commandReady e rest) :
    ∃ body, exec e.row s = .next (s.takeCommand (commandRow e.payload) body) := by
  obtain ⟨body, hbody⟩ := commandBody_commandRow e.payload
  refine ⟨body, ?_⟩
  rw [Entry.row_of_command h.2.1, exec_command hbody]

/-- Settles O29: the row's event answers without execution while the session is not OPEN, and from the cache within one session. -/
theorem commandsNotExecutedOrRepeated : Obligations.CommandsNotExecutedOrRepeated := by
  refine ⟨fun s e rest h => ?_, fun s e rest r h ho hcache hseq => ?_⟩
  · obtain ⟨body, hexec⟩ := exec_row h
    refine ⟨fun hno => ?_, fun hlost => ?_⟩ <;> rw [hexec, State.takeCommand_closed body h rfl]
    · rw [if_pos hno]
    · rw [hno]; decide
    · rw [if_neg (by rw [hlost]; decide)]
    · rw [hlost]; decide
  · obtain ⟨body, hexec⟩ := exec_row h
    rw [hexec, State.takeCommand_cached body h rfl ho hcache hseq]
    rfl

/-! ### Lengths -/

/-- The payload length of a command of a fixed length (Table 11-2). -/
def fixedLength : Instr → Option Nat
  | .getInfo | .getStatus | .resetPart | .run | .hold | .flushCaptures => some 1
  | .getLinkStats | .clearAxisFault | .deleteMark | .armGroup | .disarmGroup | .readMark | .readLines | .readStrobes | .captureNow
  | .readCaptures => some 2
  | .maskReports | .readAxes | .listMarks => some 3
  | .configLine => some 5
  | .presetAxis | .homeAxis => some 6
  | .setLink | .moveMark | .configStrobe => some 7
  | .driveLine => some 8
  | .configAxis => some 23
  | _ => none

/-- A command of a fixed length refuses operands of any other length (R156). -/
theorem badLength_of_fixed {row : Instr} {answer : List Byte → State → Answer} {n : Nat} {operands : List Byte}
    (ha : operandsAnswer row = some answer) (hn : fixedLength row = some n) (hne : operands.length + 1 ≠ n) (u : State) :
    answer operands u = u.refuse .badLength := by
  cases row <;> cases hn <;> cases ha
  all_goals
    simp only [getInfoAnswer, setLinkAnswer, getStatusAnswer, getLinkStatsAnswer, maskReportsAnswer, resetPartAnswer, runAnswer, holdAnswer,
      configAxisAnswer, presetAxisAnswer, readAxesAnswer, clearAxisFaultAnswer, homeAxisAnswer, deleteMarkAnswer, armGroupAnswer,
      disarmGroupAnswer, moveMarkAnswer, readMarkAnswer, listMarksAnswer, configLineAnswer, driveLineAnswer, readLinesAnswer,
      configStrobeAnswer, readStrobesAnswer, captureNowAnswer, readCapturesAnswer, flushCapturesAnswer]
    split
    · exact absurd rfl hne
    · rfl

/-- The codes of the commands of a fixed length, with their lengths (Table 11-2). -/
def fixedLengthCodes : List (Nat × Nat) :=
  [(0x02, 1), (0x03, 7), (0x04, 1), (0x05, 2), (0x06, 3), (0x07, 1), (0x08, 1), (0x09, 1), (0x10, 23), (0x11, 6),
    (0x12, 3), (0x13, 2), (0x14, 6), (0x21, 2), (0x24, 2), (0x25, 2), (0x26, 7), (0x27, 2), (0x28, 3), (0x30, 5),
    (0x31, 8), (0x32, 2), (0x40, 7), (0x41, 2), (0x42, 2), (0x43, 2), (0x44, 1)]

/-- Each of the codes names a command of its length, whose answer to its operands is listed. -/
theorem fixedLengthCodes_named {code : Byte} {length : Nat} (h : (code.toNat, length) ∈ fixedLengthCodes) :
    ∃ row answer, commandOf code = some row ∧ fixedLength row = some length ∧ operandsAnswer row = some answer := by
  have table : ∀ p ∈ fixedLengthCodes, (commandOf (BitVec.ofNat 8 p.1)).bind fixedLength = some p.2 := by decide
  have hcode := table _ h
  rw [BitVec.ofNat_toNat, BitVec.setWidth_eq] at hcode
  obtain ⟨row, hrow, hlength⟩ := Option.bind_eq_some_iff.mp hcode
  have hanswer : (operandsAnswer row).isSome = true := by
    cases row <;> cases hlength <;> rfl
  obtain ⟨answer, ha⟩ := Option.isSome_iff_exists.mp hanswer
  exact ⟨row, answer, hrow, hlength, ha⟩

/-- A list command refuses a count that does not give its length, and no count (R156). -/
theorem markListAnswer_badLength (op : State → MarkId → State × MarkResult) {count : Byte} {ids : List Byte} (h : ids.length ≠ count.toNat)
    (u : State) : markListAnswer op (count :: ids) u = u.refuse .badLength := if_pos h

/-- DEFINE_MARK refuses a length that is not 20 and 7 for each action (R156). -/
theorem defineMarkAnswer_badLength {operands : List Byte} (h : operands.length + 1 ≠ 20 + 7 * (operands.getD 18 0).toNat) (u : State) :
    defineMarkAnswer operands u = u.refuse .badLength := by
  unfold defineMarkAnswer
  split
  · refine if_pos fun hlen => h ?_
    simp only [List.length_cons, List.getD_cons_succ, List.getD_cons_zero]
    omega
  · rfl

/-- A payload that names no command is taken as UNKNOWN_COMMAND, which settles no arrival (R156). -/
theorem exec_unknownCommand {s u : State} {e : Entry} {rest : List Entry} (h : s.executesOn e rest u)
    (hrow : commandRow e.payload = .unknownCommand) :
    exec .unknownCommand s = .next ((unknownCommandAnswer e.payload u).reply e) := by
  have hu : u = s.withInbound rest := by
    rw [h.2, if_neg]
    rw [Entry.row_of_command h.1.1.2.1, hrow]
    decide
  change Host.Outcome.next _ = _
  rw [State.takeCommand_executes _ h.1 hrow, hu]
  rfl

/-- Settles O30: the commands of a fixed length by their table, each other command by its own check. -/
theorem commandLengthsAreChecked : Obligations.CommandLengthsAreChecked := by
  intro s e rest u h
  refine ⟨fun code length operands htable hp hne => ?_, fun code count ids hcode hp hne => ?_, fun code hcode hp => ?_, fun operands hp hne => ?_,
    fun data hp hlong => ?_, fun hp => ?_, fun code operands hp hnone => ?_⟩
  · obtain ⟨row, answer, hc, hlength, ha⟩ := fixedLengthCodes_named htable
    rw [hp, List.length_cons] at hne
    rw [Entry.row_of_code h.1 hp hc, exec_answers h hp hc ha, badLength_of_fixed ha hlength hne]
    rfl
  · have hids : ids.length ≠ count.toNat := by
      rw [hp, List.length_cons, List.length_cons] at hne
      omega
    rcases hcode with rfl | rfl
    · rw [Entry.row_of_code h.1 hp rfl, exec_answers h hp rfl rfl, armMarksAnswer, markListAnswer_badLength _ hids]
      rfl
    · rw [Entry.row_of_code h.1 hp rfl, exec_answers h hp rfl rfl, disarmMarksAnswer, markListAnswer_badLength _ hids]
      rfl
  · rcases hcode with rfl | rfl <;> rw [Entry.row_of_code h.1 hp rfl, exec_answers h hp rfl rfl] <;> rfl
  · rw [hp, List.length_cons] at hne
    rw [exec_answers h hp rfl rfl, defineMarkAnswer_badLength hne]
    rfl
  · rw [exec_answers h hp rfl rfl, pingAnswer, if_neg (Nat.not_le.mpr hlong)]
    rfl
  · rw [exec_unknownCommand h (by rw [hp]; rfl), hp]
    exact ⟨rfl, rfl⟩
  · rw [exec_unknownCommand h (by rw [hp, commandRow, hnone]; rfl), hp]
    exact ⟨rfl, rfl⟩

/-! ### Commands that only read -/

theorem listMarksAnswer_some {n start : Byte} {a : Axis} (h : n.toNat = a.val) (u : State) :
    listMarksAnswer [n, start] u =
      u.answer ([n] ++ put16 (u.axisMarks a).length ++ [start] ++ put8 (min 38 ((u.axisMarks a).length - start.toNat))
        ++ (((u.axisMarks a).drop start.toNat).take 38).flatMap fun m => put8 m.id.val ++ putPos m.target ++ put8 m.state.code) := by
  have hlength : (listedMarks (u.axisMarks a) start.toNat).length = min 38 ((u.axisMarks a).length - start.toNat) := by
    rw [listedMarks, List.length_take, List.length_drop]
    rfl
  rw [listMarksAnswer, axisOf_eq h]
  dsimp only
  rw [hlength]
  rfl

/-- Settles O31: each command's data. -/
theorem readingCommandsAnswer : Obligations.ReadingCommandsAnswer := by
  intro s e rest u h
  refine ⟨fun data hp hshort => ?_, fun hp => ?_, fun hp => ?_, fun id hp => ?_, fun n start hp hn => ?_, fun n start a hp hn => ?_⟩
  · rw [exec_answers h hp rfl rfl, pingAnswer, if_pos hshort]
    rfl
  · rw [exec_answers h hp rfl rfl]
    rfl
  · refine ⟨axisSet fun a => (u.axis a).phaseFlag || (u.axis a).limitFlag, fun a => axisSet_getLsbD _ a, ?_⟩
    rw [exec_answers h hp rfl rfl]
    rfl
  · rw [exec_answers h hp rfl rfl]
    rfl
  · rw [exec_answers h hp rfl rfl, listMarksAnswer, axisOf_none hn]
    rfl
  · rw [exec_answers h hp rfl rfl, listMarksAnswer_some hn]
    rfl

end Sys2Proof.Machine
end

section
/-! SET_LINK, GET_LINK_STATS, MASK_REPORTS, RESET_PART (O32), RUN and HOLD (O33). -/

namespace Sys2Proof.Machine

/-! ### Link parameters and flags -/

theorem LinkParams.valid_iff (p : LinkParams) :
    p.valid = true ↔
      (p.silence = 0 ∨ 20 ≤ p.silence ∧ p.silence ≤ 60000) ∧ (2 ≤ p.ack ∧ p.ack ≤ 1000) ∧ p.retryLimit ≤ 15 ∧ (1 ≤ p.window ∧ p.window ≤ 8) := by
  rw [LinkParams.valid, decide_eq_true_iff, and_assoc]

theorem setLinkAnswer_eq (s0 s1 a0 a1 retry window : Byte) (u : State) :
    setLinkAnswer [s0, s1, a0, a1, retry, window] u =
      if (LinkParams.mk (le16 s0 s1) (le16 a0 a1) retry.toNat window.toNat).valid then
        (u.setParams { silence := le16 s0 s1, ack := le16 a0 a1, retryLimit := retry.toNat, window := window.toNat }).answer
          (putParams u.cmi.params)
      else u.refuse .badArgument := rfl

/-- A flag of a command (Table 11-12): NO, YES, or no flag at all. -/
theorem flagOf_eq {flag : Byte} (h : flag.toNat ≤ 1) : flagOf flag = some (decide (flag = 1)) := by
  rcases byte_flag h with rfl | rfl <;> rfl

theorem getLinkStatsAnswer_eq {flag : Byte} (h : flag.toNat ≤ 1) (u : State) :
    getLinkStatsAnswer [flag] u =
      (u.setLrx { u.lrx with stats := if flag = 1 then .reset else u.lrx.stats }).answer (statsData u.lrx.stats) := by
  rw [getLinkStatsAnswer, flagOf_eq h]
  dsimp only
  by_cases hf : flag = 1
  · rw [decide_eq_true hf, if_pos rfl, if_pos hf]
  · rw [decide_eq_false hf, if_neg Bool.false_ne_true, if_neg hf]
    rfl

/-! ### Report kind sets -/

/-- A report kind set has no term outside the kind codes 1 to 9 (R165). -/
theorem kinds_in_range_iff (kinds : BitVec 16) : kinds &&& 0xFC01 = 0 ↔ ∀ k : Nat, kinds.getLsbD k = true → 1 ≤ k ∧ k ≤ 9 := by
  have outside : ∀ k < 16, (0xFC01 : BitVec 16).getLsbD k = !decide (1 ≤ k ∧ k ≤ 9) := by decide
  refine ⟨fun h k hk => ?_, fun h => BitVec.eq_of_getLsbD_eq fun k hk => ?_⟩
  · have hlt : k < 16 := BitVec.lt_of_getLsbD hk
    have hbit : (kinds &&& 0xFC01).getLsbD k = false := by rw [h]; exact BitVec.getLsbD_zero
    rw [BitVec.getLsbD_and, hk, Bool.true_and, outside k hlt, Bool.not_eq_false', decide_eq_true_iff] at hbit
    exact hbit
  · rw [BitVec.getLsbD_and, outside k hk, show (0 : BitVec 16).getLsbD k = false from BitVec.getLsbD_zero]
    cases hb : kinds.getLsbD k with
    | false => rfl
    | true => rw [decide_eq_true (h k hb)]; rfl

/-- The enables that a report kind set gives (R123). -/
theorem enabled_maskOfSet (kinds : BitVec 16) (k : ReportKind) :
    k.enabled (maskOfSet kinds) = (kinds.getLsbD k.code || decide (k = .runState ∨ k = .overflow)) := by
  cases k <;> simp [ReportKind.enabled, maskOfSet, ReportKind.code]

/-- The set of the kinds enabled (Table 11-12 note 2). -/
theorem maskSet_getLsbD (mask : BitVec 7) (k : ReportKind) : (maskSet mask).getLsbD k.code = k.enabled mask := by
  revert mask
  cases k <;> decide +kernel

theorem maskSet_outside (mask : BitVec 7) {k : Nat} (h : k < 1 ∨ 9 < k) : (maskSet mask).getLsbD k = false := by
  have low : ∀ (mask : BitVec 7) (k : Fin 16), k.val < 1 ∨ 9 < k.val → (maskSet mask).getLsbD k.val = false := by decide +kernel
  by_cases hk : k < 16
  · exact low mask ⟨k, hk⟩ h
  · exact BitVec.getLsbD_of_ge _ _ (Nat.le_of_not_lt hk)

theorem maskReportsAnswer_eq (k0 k1 : Byte) (u : State) :
    maskReportsAnswer [k0, k1] u =
      if (k1 ++ k0 : BitVec 16) &&& 0xFC01 = 0 then
        (u.setRpq { u.rpq with mask := maskOfSet (k1 ++ k0) }).answer (putBits16 (maskSet u.rpq.mask))
      else u.refuse .badArgument := rfl

/-- Settles O32: each command by its checks. -/
theorem linkServiceCommands : Obligations.LinkServiceCommands := by
  refine ⟨fun s e rest s0 s1 a0 a1 retry window h hp => ?_, fun s e rest h => ⟨fun flag hp => ⟨fun hf => ?_, fun hf => ?_⟩,
    fun k0 k1 kinds hp hk => ⟨fun hin => ?_, fun hout => ?_⟩, fun hp => ?_⟩⟩
  · rw [exec_answers_named h hp rfl rfl rfl, setLinkAnswer_eq]
    refine ⟨fun hv => ?_, fun hv => ?_⟩
    · rw [if_pos ((LinkParams.valid_iff _).mpr hv)]
      rfl
    · rw [if_neg fun hvalid => hv ((LinkParams.valid_iff _).mp hvalid)]
      rfl
  · rw [exec_answers_named h hp rfl rfl rfl, getLinkStatsAnswer_eq hf]
    rfl
  · rw [exec_answers_named h hp rfl rfl rfl, getLinkStatsAnswer, flagOf_none hf]
    rfl
  · subst hk
    refine ⟨maskOfSet (k1 ++ k0), maskSet s.rpq.mask, enabled_maskOfSet _, maskSet_getLsbD _, fun k hk => maskSet_outside _ hk, ?_⟩
    rw [exec_answers_named h hp rfl rfl rfl, maskReportsAnswer_eq, if_pos ((kinds_in_range_iff _).mpr hin)]
    rfl
  · subst hk
    obtain ⟨k, hbit, hk⟩ := hout
    rw [exec_answers_named h hp rfl rfl rfl, maskReportsAnswer_eq, if_neg]
    · rfl
    · intro hzero
      have := (kinds_in_range_iff _).mp hzero k hbit
      omega
  · rw [exec_answers_named h hp rfl rfl rfl]
    rfl

/-! ### RUN and HOLD -/

/-- The entry into RUN: its report, then one map over the table with one report for each mark advanced (R65, R67, R118). -/
theorem State.enterRun_eq {u : State} (h : SortedIds u.mks.marks) :
    u.enterRun =
      ({ u with
          rnc := { u.rnc with state := .run }
          mks := { u.mks with marks := u.mks.marks.map fun m => (Option.map Prod.fst (m.advanceIn u)).getD m }
          rpq := skipReports u.tick (u.rpq.take (.runState .run .host u.tick) u.tick) (u.mks.marks.filterMap (Mark.advanceIn u)) },
        (u.mks.marks.filterMap (Mark.advanceIn u)).length) :=
  State.catchUp_eq (s := (u.setRnc { u.rnc with state := .run }).report (.runState .run .host u.tick)) h

/-- Settles O33: each command by the run state it finds. -/
theorem runAndHoldEnter : Obligations.RunAndHoldEnter := by
  intro s e rest u h
  refine ⟨fun hp hst => ?_, fun hp hst hlaw => ⟨_, fun _ => rfl, ?_⟩, fun hp hst => ?_, fun hp hst => ⟨mapUnits Line.driveSafe u.lines, fun n => ?_, ?_⟩⟩
  · rw [exec_answers h hp rfl rfl, runAnswer, hst]
    rfl
  · rw [exec_answers h hp rfl rfl, runAnswer, hst, State.enterRun_eq hlaw.1]
    rfl
  · rw [exec_answers h hp rfl rfl, holdAnswer, hst]
    rfl
  · rw [mapUnits_getElem]
    rfl
  · rw [exec_answers h hp rfl rfl, holdAnswer, hst]
    rfl

end Sys2Proof.Machine
end

section
/-! The axis commands: CONFIG_AXIS (O34) and its field checks (O35), PRESET_AXIS and HOME_AXIS (O36), READ_AXES and CLEAR_AXIS_FAULT (O37). -/

namespace Sys2Proof.Machine

/-! ### CONFIG_AXIS -/

/-- A chain of sources meets the axis it begins at. -/
theorem State.sourceChainMeets_self (s : State) (a : Axis) : s.sourceChainMeets a a := ⟨0, rfl⟩

theorem State.sourceFits_iff (u : State) (a : Axis) (c : AxisConfig) :
    u.sourceFits a c = true ↔
      (c.mode = .revs → (u.axis c.source).config.kind = .rotary ∧ (u.axis c.source).config.mode ≠ .off ∧ ¬u.sourceChainMeets c.source a) := by
  cases hm : c.mode with
  | revs =>
    have hfits : u.sourceFits a c =
        (decide (c.source ≠ a ∧ (u.axis c.source).config.kind = .rotary ∧ (u.axis c.source).config.mode ≠ .off)
          && !u.chainMeets a 8 c.source) := by
      rw [State.sourceFits, hm]
      rfl
    rw [hfits, Bool.and_eq_true, decide_eq_true_iff, Bool.not_eq_true', ← Bool.not_eq_true, State.chainMeets_iff]
    constructor
    · rintro ⟨⟨-, hkind, hmode⟩, hchain⟩
      exact fun _ => ⟨hkind, hmode, hchain⟩
    · intro h
      obtain ⟨hkind, hmode, hchain⟩ := h rfl
      exact ⟨⟨fun hself => hchain (hself ▸ u.sourceChainMeets_self _), hkind, hmode⟩, hchain⟩
  | _ =>
    rw [State.sourceFits, hm]
    exact ⟨fun _ => nofun, fun _ => rfl⟩

theorem mem_allAxes (a : Axis) : a ∈ allAxes := by
  revert a
  decide

theorem State.breaksSource_iff (u : State) (a : Axis) (c : AxisConfig) :
    u.breaksSource a c = true ↔ (c.mode = .off ∨ c.kind ≠ .rotary) ∧ ∃ b : Axis, u.countsWrapsOf a b = true := by
  rw [State.breaksSource, Bool.and_eq_true, decide_eq_true_iff, List.any_eq_true]
  simp only [mem_allAxes, true_and]

theorem State.axisBusy_iff (u : State) (a : Axis) : u.axisBusy a = true ↔ ∃ m ∈ u.mks.marks, m.axis = a ∧ m.active = true := by
  simp only [State.axisBusy, List.any_eq_true, Bool.and_eq_true, decide_eq_true_eq]

/-- The operands of CONFIG_AXIS, as fields and an axis. -/
theorem configAxisAnswer_eq {f : AxisFields} {n m0 m1 m2 m3 fl d0 d1 x0 x1 x2 x3 p0 p1 p2 p3 : Byte} (hmod : f.modulus = le32 m0 m1 m2 m3)
    (hfilter : f.filter = fl.toNat) (hdiv : f.divisor = le16 d0 d1) (hpreset : f.indexPreset = leInt x0 x1 x2 x3)
    (hinit : f.initial = leInt p0 p1 p2 p3) (u : State) :
    configAxisAnswer [n, f.mode, f.invert, f.kind, m0, m1, m2, m3, fl, d0, d1, f.source, f.indexMode, f.indexQual, x0, x1, x2, x3, p0, p1, p2,
        p3] u =
      match axisOf n, f.config with
      | some a, some c => u.configAxis a c
      | _, _ => u.refuse .badArgument := by
  obtain ⟨mode, invert, kind, modulus, filter, divisor, source, indexMode, indexQual, indexPreset, initial⟩ := f
  dsimp only at hmod hfilter hdiv hpreset hinit
  subst hmod hfilter hdiv hpreset hinit
  rfl

/-- Settles O34: the checks of R4 and R22 in their order, and the new unit. -/
theorem configAxisReplacesRecord : Obligations.ConfigAxisReplacesRecord := by
  intro s e rest u n a f m0 m1 m2 m3 fl d0 d1 x0 x1 x2 x3 p0 p1 p2 p3 h hmod hfilter hdiv hpreset hinit hp
  have hexec := exec_answers h hp rfl rfl
  rw [configAxisAnswer_eq hmod hfilter hdiv hpreset hinit] at hexec
  refine ⟨fun hbad => ?_, fun c fits breaks hn hc hfits hbreaks => ?_⟩
  · rw [hexec]
    rcases hbad with hn | hnone
    · rw [axisOf_none hn]
      rfl
    · rw [hnone]
      cases axisOf n <;> rfl
  · rw [axisOf_eq hn, hc] at hexec
    rw [hexec]
    rw [← State.sourceFits_iff u a c] at hfits
    rw [← State.breaksSource_iff u a c] at hbreaks
    dsimp only [State.configAxis]
    refine ⟨fun hno => ?_, fun hyes hb => ?_, fun hyes hb hbusy => ?_, fun hyes hb hidle => ?_⟩
    · rw [if_pos (by rw [Bool.not_eq_true', Bool.eq_false_iff]; exact fun ht => hno (hfits.mpr ht))]
      rfl
    all_goals rw [if_neg (by rw [hfits.mp hyes]; decide)]
    · rw [if_pos (hbreaks.mp hb)]
      rfl
    all_goals rw [if_neg fun ht => hb (hbreaks.mpr ht)]
    · rw [if_pos ((u.axisBusy_iff a).mpr hbusy)]
      rfl
    · rw [if_neg]
      · rfl
      · intro hbusy
        obtain ⟨m, hm, ha, hact⟩ := (u.axisBusy_iff a).mp hbusy
        rw [hidle m hm ha] at hact
        cases hact

/-! ### PRESET_AXIS and HOME_AXIS -/

/-- Settles O36: both commands by the axis and by whether the value may be given to it. -/
theorem presetAndHomeAxis : Obligations.PresetAndHomeAxis := by
  intro s e rest code n v0 v1 v2 v3 a v h hp hv hcode
  have hset : ∀ w : State, w.axes = s.axes → (w.settable a v = true ↔ (s.axis a).config.mode ≠ .off ∧ (s.axis a).config.inRange v = true) := by
    intro w hw
    rw [State.settable, Bool.and_eq_true, decide_eq_true_iff, State.axis, hw]
    rfl
  refine ⟨fun hn => ?_, fun hn hbad => ?_, fun hn hon hx => ⟨fun hc => ?_, fun hc => ?_⟩⟩
  · rcases hcode with rfl | rfl <;> rw [Entry.row_of_code h hp rfl, exec_answers_named h hp rfl rfl rfl]
    · rw [presetAxisAnswer, axisOf_none hn]
      rfl
    · rw [homeAxisAnswer, axisOf_none hn]
      rfl
  · have hno : ¬(s.withInbound rest).settable a (leInt v0 v1 v2 v3) = true := by
      rw [← hv, hset (s.withInbound rest) rfl]
      rintro ⟨hon, hx⟩
      rcases hbad with hoff | hout
      · exact hon hoff
      · rw [hx] at hout
        cases hout
    rcases hcode with rfl | rfl <;> rw [Entry.row_of_code h hp rfl, exec_answers_named h hp rfl rfl rfl]
    · rw [presetAxisAnswer, axisOf_eq hn]
      dsimp only
      rw [if_neg hno]
      rfl
    · rw [homeAxisAnswer, axisOf_eq hn]
      dsimp only
      rw [if_neg hno]
      rfl
  all_goals
    subst hc hv
    have hyes := (hset (s.withInbound rest) rfl).mpr ⟨hon, hx⟩
  · rw [exec_answers_named h hp rfl rfl rfl, presetAxisAnswer, axisOf_eq hn]
    dsimp only
    rw [if_pos hyes]
    rfl
  · rw [exec_answers_named h hp rfl rfl rfl, homeAxisAnswer, axisOf_eq hn]
    dsimp only
    rw [if_pos hyes]
    rfl

/-! ### READ_AXES and CLEAR_AXIS_FAULT -/

theorem State.updateAxes_getElem (s : State) (mask : BitVec 8) (f : AxisUnit → AxisUnit) (a : Axis) :
    (s.updateAxes mask f).axes[a.val] = if mask.getLsbD a.val = true then f (s.axis a) else s.axis a := by
  simp [State.updateAxes, State.setAxes, State.axis]

/-- Settles O37: the two commands, their masks and their flag. -/
theorem readAxesAndClearFault : Obligations.ReadAxesAndClearFault := by
  intro s e rest mask h
  refine ⟨fun flag hp => ⟨fun hbad => ?_, fun hmask hf => ?_⟩, fun hp => ⟨fun hmask => ?_, fun hmask => ?_⟩⟩
  · rw [exec_answers_named h hp rfl rfl rfl, readAxesAnswer]
    rcases hbad with rfl | hf
    · cases flagOf flag <;> rfl
    · rw [flagOf_none hf]
      rfl
  · refine ⟨(if flag = 1 then s.updateAxes mask AxisUnit.clearCount else s).axes, fun a => ?_, ?_⟩
    · by_cases hflag : flag = 1
      · rw [if_pos hflag, State.updateAxes_getElem]
        simp only [hflag, true_and]
        rfl
      · rw [if_neg hflag, if_neg fun hc => hflag hc.1]
        rfl
    · rw [exec_answers_named h hp rfl rfl rfl, readAxesAnswer, flagOf_eq hf]
      dsimp only
      rw [if_neg hmask]
      by_cases hflag : flag = 1
      · rw [decide_eq_true hflag, if_pos rfl, if_pos hflag]
        rfl
      · rw [decide_eq_false hflag, if_neg Bool.false_ne_true, if_neg hflag]
        rfl
  · rw [exec_answers_named h hp rfl rfl rfl, clearAxisFaultAnswer, if_pos hmask]
    rfl
  · refine ⟨(s.updateAxes mask AxisUnit.clearFault).axes, mask &&& axisSet fun a => (s.axis a).phaseFlag,
      mask &&& axisSet fun a => (s.axis a).limitFlag, fun a => s.updateAxes_getElem mask _ a, fun a => ?_, fun a => ?_, ?_⟩
    · rw [BitVec.getLsbD_and, axisSet_getLsbD]
    · rw [BitVec.getLsbD_and, axisSet_getLsbD]
    · rw [exec_answers_named h hp rfl rfl rfl, clearAxisFaultAnswer, if_neg hmask]
      rfl

end Sys2Proof.Machine
end

section
/-! The fields of CONFIG_AXIS, one by one (O35). -/

namespace Sys2Proof.Machine

/-! ### One field -/

theorem flagOf_some_iff (b : Byte) (x : Bool) : flagOf b = some x ↔ b.toNat ≤ 1 ∧ (x = true ↔ b.toNat = 1) := by
  revert b x
  decide +kernel

theorem AxisMode.ofByte_none {b : Byte} (h : 7 < b.toNat) : AxisMode.ofByte b = none := by
  revert b
  decide +kernel

theorem AxisKind.ofByte_some_iff (b : Byte) (k : AxisKind) : AxisKind.ofByte b = some k ↔ b.toNat ≤ 1 ∧ (k = .rotary ↔ b.toNat = 1) := by
  revert b
  cases k <;> decide +kernel

theorem IndexMode.ofByte_isSome (b : Byte) : (∃ m, IndexMode.ofByte b = some m) ↔ b.toNat ≤ 3 := by
  rw [← Option.isSome_iff_exists]
  revert b
  decide +kernel

/-- The index modes 2 and 3 use the index preset (Table 1-2). -/
theorem IndexMode.presets_iff {b : Byte} {m : IndexMode} (h : IndexMode.ofByte b = some m) : m.presets = true ↔ 2 ≤ b.toNat := by
  revert b
  cases m <;> decide +kernel

theorem Qualifier.ofByte_isSome (b : Byte) : (∃ q, Qualifier.ofByte b = some q) ↔ 1 ≤ b.toNat ∧ b.toNat ≤ 3 := by
  rw [← Option.isSome_iff_exists]
  revert b
  decide +kernel

theorem axisOf_isSome (b : Byte) : (∃ a, axisOf b = some a) ↔ b.toNat < 8 := by
  refine ⟨fun ⟨a, ha⟩ => ?_, fun h => ⟨⟨b.toNat, h⟩, axisOf_eq rfl⟩⟩
  by_contra hge
  rw [axisOf_none (by omega)] at ha
  cases ha

theorem axisOf_val {b : Byte} {a : Axis} (h : axisOf b = some a) : a.val = b.toNat := by
  have hlt := (axisOf_isSome b).mp ⟨a, h⟩
  rw [axisOf_eq (a := ⟨b.toNat, hlt⟩) rfl] at h
  rw [← Option.some.inj h]

/-! ### The range of a new record -/

section
variable {f : AxisFields} {range : Int → Prop}

/-- The values that a record of kind `kind` and modulus `modulus` accepts (Table 1-2 note 1). -/
theorem AxisFields.inRange_iff
    (hrange : ∀ v, range v ↔ (f.kind.toNat = 0 ∧ -2147483648 ≤ v ∧ v ≤ 2147483647) ∨ (f.kind.toNat = 1 ∧ 0 ≤ v ∧ v < f.modulus))
    {kind : AxisKind} {modulus : Nat} (hk : AxisKind.ofByte f.kind = some kind) (hm : f.modulusField kind = some modulus) (v : Int) :
    (f.rangeRecord kind modulus).inRange v = true ↔ range v := by
  obtain ⟨hle, hrot⟩ := (AxisKind.ofByte_some_iff _ _).mp hk
  rw [hrange]
  cases kind with
  | linear =>
    have h0 : f.kind.toNat = 0 := by
      have : f.kind.toNat ≠ 1 := fun h => nomatch hrot.mpr h
      omega
    change (decide (Config.linearMin ≤ v) && decide (v ≤ Config.linearMax)) = true ↔ _
    rw [Bool.and_eq_true, decide_eq_true_iff, decide_eq_true_iff, h0]
    simp [Config.linearMin, Config.linearMax]
  | rotary =>
    have h1 : f.kind.toNat = 1 := hrot.mp rfl
    have hmod : modulus = f.modulus := by
      rw [AxisFields.modulusField, Option.ite_none_right_eq_some] at hm
      exact (Option.some.inj hm.2).symm
    change (decide (0 ≤ v) && decide (v < modulus)) = true ↔ _
    rw [Bool.and_eq_true, decide_eq_true_iff, decide_eq_true_iff, h1, hmod]
    simp

theorem AxisFields.range_inRange
    (hrange : ∀ v, range v ↔ (f.kind.toNat = 0 ∧ -2147483648 ≤ v ∧ v ≤ 2147483647) ∨ (f.kind.toNat = 1 ∧ 0 ≤ v ∧ v < f.modulus))
    {r : AxisConfig} (h : f.range = some r) (v : Int) : r.inRange v = true ↔ range v := by
  obtain ⟨kind, modulus, hk, hm, -, rfl⟩ := AxisFields.range_eq_some.mp h
  exact AxisFields.inRange_iff hrange hk hm v

/-- The checks R4 makes of the range of a record. -/
theorem AxisFields.range_isSome
    (hrange : ∀ v, range v ↔ (f.kind.toNat = 0 ∧ -2147483648 ≤ v ∧ v ≤ 2147483647) ∨ (f.kind.toNat = 1 ∧ 0 ≤ v ∧ v < f.modulus)) :
    (∃ c, f.range = some c) ↔
      f.kind.toNat ≤ 1 ∧ (f.kind.toNat = 1 → 2 ≤ f.modulus ∧ f.modulus ≤ 16777216) ∧ range f.initial := by
  constructor
  · rintro ⟨c, hc⟩
    obtain ⟨kind, modulus, hk, hm, hin, -⟩ := AxisFields.range_eq_some.mp hc
    obtain ⟨hle, hrot⟩ := (AxisKind.ofByte_some_iff _ _).mp hk
    refine ⟨hle, fun h1 => ?_, (AxisFields.inRange_iff hrange hk hm _).mp hin⟩
    rw [hrot.mpr h1, AxisFields.modulusField, Option.ite_none_right_eq_some] at hm
    exact hm.1
  · rintro ⟨hle, hmod, hin⟩
    have hfield : ∃ kind modulus, AxisKind.ofByte f.kind = some kind ∧ f.modulusField kind = some modulus := by
      by_cases h1 : f.kind.toNat = 1
      · exact ⟨.rotary, f.modulus, (AxisKind.ofByte_some_iff _ _).mpr ⟨hle, by simp [h1]⟩, if_pos (hmod h1)⟩
      · exact ⟨.linear, _, (AxisKind.ofByte_some_iff _ _).mpr ⟨hle, by simp [h1]⟩, rfl⟩
    obtain ⟨kind, modulus, hk, hm⟩ := hfield
    exact ⟨_, AxisFields.range_eq_some.mpr ⟨kind, modulus, hk, hm, (AxisFields.inRange_iff hrange hk hm _).mpr hin, rfl⟩⟩

end

/-- The record with its kind, modulus and initial position checked, and every other field at its reset value (Table 1-2). -/
structure AxisFields.Ranged (f : AxisFields) (c : AxisConfig) : Prop where
  kind : c.kind = .rotary ↔ f.kind.toNat = 1
  initial : c.initial = f.initial
  rotary : c.kind = .rotary → c.modulus = f.modulus
  linear : c.kind = .linear → c.modulus = 2
  rest : c = { AxisConfig.reset with kind := c.kind, modulus := c.modulus, initial := c.initial }

theorem AxisFields.ranged {f : AxisFields} {c : AxisConfig} (h : f.range = some c) : f.Ranged c := by
  obtain ⟨kind, modulus, hk, hm, -, rfl⟩ := AxisFields.range_eq_some.mp h
  refine ⟨((AxisKind.ofByte_some_iff _ _).mp hk).2, rfl, fun hrot => ?_, fun hlin => ?_, rfl⟩
  · have hrot : kind = .rotary := hrot
    rw [hrot, AxisFields.modulusField, Option.ite_none_right_eq_some] at hm
    exact (Option.some.inj hm.2).symm
  · have hlin : kind = .linear := hlin
    rw [hlin] at hm
    exact (Option.some.inj hm).symm

/-! ### The fields that apply -/

theorem AxisFields.filterField_iff (f : AxisFields) (x : Nat) : f.filterField = some x ↔ f.filter ≤ 15 ∧ f.filter = x := by
  rw [AxisFields.filterField, Option.ite_none_right_eq_some, Option.some.injEq]

theorem AxisFields.divisorField_iff (f : AxisFields) (mode : AxisMode) (r : AxisConfig) (x : Nat) :
    f.divisorField mode r = some x ↔
      (mode = .timebase → (1 ≤ f.divisor ∧ f.divisor ≤ 65535) ∧ f.divisor = x) ∧ (mode ≠ .timebase → r.divisor = x) := by
  rw [AxisFields.divisorField]
  split
  next h => simp [h, Option.ite_none_right_eq_some]
  next h => simp [h]

theorem AxisFields.sourceField_iff (f : AxisFields) (mode : AxisMode) (r : AxisConfig) (x : Axis) :
    f.sourceField mode r = some x ↔ (mode = .revs → axisOf f.source = some x) ∧ (mode ≠ .revs → r.source = x) := by
  rw [AxisFields.sourceField]
  split
  next h => simp [h]
  next h => simp [h]

theorem AxisFields.presetField_iff (f : AxisFields) (m : IndexMode) (r : AxisConfig) (x : Int) :
    f.presetField m r = some x ↔
      (m.presets = true → r.inRange f.indexPreset = true ∧ f.indexPreset = x) ∧ (¬m.presets = true → r.indexPreset = x) := by
  rw [AxisFields.presetField]
  split
  next h => simp [h, Option.ite_none_right_eq_some]
  next h => simp [h]

/-- A record of mode OFF: only its range is checked (Table 1-2 note 2). -/
theorem AxisFields.config_off_iff {f : AxisFields} (hmode : AxisMode.ofByte f.mode = some .off) (c : AxisConfig) :
    f.config = some c ↔ ∃ r, f.range = some r ∧ c = { r with mode := .off } := by
  rw [AxisFields.config_eq, hmode, Option.bind_some]
  simp only [if_true, Option.bind_eq_some_iff, Option.some.injEq]
  exact exists_congr fun r => and_congr_right fun _ => eq_comm

/-- The record of any other mode, every field checked. -/
theorem AxisFields.config_on_iff {f : AxisFields} {mode : AxisMode} (hmode : AxisMode.ofByte f.mode = some mode) (hon : mode ≠ .off)
    (c : AxisConfig) :
    f.config = some c ↔
      ∃ r, f.range = some r ∧ ∃ invert filter divisor source indexMode indexQual indexPreset,
        flagOf f.invert = some invert ∧ f.filterField = some filter ∧ f.divisorField mode r = some divisor ∧
        f.sourceField mode r = some source ∧ IndexMode.ofByte f.indexMode = some indexMode ∧
        Qualifier.ofByte f.indexQual = some indexQual ∧ f.presetField indexMode r = some indexPreset ∧
        c = { r with mode, invert, filter, divisor, source, indexMode, indexQual, indexPreset } := by
  rw [AxisFields.config_eq, hmode, Option.bind_some]
  simp only [if_neg hon, Option.bind_eq_some_iff, Option.some.injEq]
  constructor
  · rintro ⟨r, hr, invert, hinvert, filter, hfilter, divisor, hdivisor, source, hsource, indexMode, him, indexQual, hiq, indexPreset, hip, rfl⟩
    exact ⟨r, hr, invert, filter, divisor, source, indexMode, indexQual, indexPreset, hinvert, hfilter, hdivisor, hsource, him, hiq, hip, rfl⟩
  · rintro ⟨r, hr, invert, filter, divisor, source, indexMode, indexQual, indexPreset, hinvert, hfilter, hdivisor, hsource, him, hiq, hip, rfl⟩
    exact ⟨r, hr, invert, hinvert, filter, hfilter, divisor, hdivisor, source, hsource, indexMode, him, indexQual, hiq, indexPreset, hip, rfl⟩

section
variable {f : AxisFields} {mode : AxisMode} {range : Int → Prop}

/-- The records accepted in a mode other than OFF (R4 checks 2 to 4). -/
theorem AxisFields.config_on_isSome (hmode : AxisMode.ofByte f.mode = some mode) (hon : mode ≠ .off)
    (hrange : ∀ v, range v ↔ (f.kind.toNat = 0 ∧ -2147483648 ≤ v ∧ v ≤ 2147483647) ∨ (f.kind.toNat = 1 ∧ 0 ≤ v ∧ v < f.modulus)) :
    (∃ c, f.config = some c) ↔
      (∃ r, f.range = some r) ∧ f.invert.toNat ≤ 1 ∧ f.filter ≤ 15 ∧ (mode = .timebase → 1 ≤ f.divisor ∧ f.divisor ≤ 65535) ∧
        (mode = .revs → f.source.toNat < 8) ∧ f.indexMode.toNat ≤ 3 ∧ (1 ≤ f.indexQual.toNat ∧ f.indexQual.toNat ≤ 3) ∧
        (2 ≤ f.indexMode.toNat → range f.indexPreset) := by
  simp only [AxisFields.config_on_iff hmode hon]
  constructor
  · rintro ⟨c, r, hr, invert, filter, divisor, source, indexMode, indexQual, indexPreset, hinvert, hfilter, hdivisor, hsource, him, hiq, hip, -⟩
    refine ⟨⟨r, hr⟩, ((flagOf_some_iff _ _).mp hinvert).1, ((f.filterField_iff _).mp hfilter).1,
      fun ht => (((f.divisorField_iff _ _ _).mp hdivisor).1 ht).1,
      fun hs => (axisOf_isSome _).mp ⟨source, ((f.sourceField_iff _ _ _).mp hsource).1 hs⟩, (IndexMode.ofByte_isSome _).mp ⟨_, him⟩,
      (Qualifier.ofByte_isSome _).mp ⟨_, hiq⟩, fun h2 => ?_⟩
    exact (AxisFields.range_inRange hrange hr _).mp (((f.presetField_iff _ _ _).mp hip).1 ((IndexMode.presets_iff him).mpr h2)).1
  · rintro ⟨⟨r, hr⟩, hinvert, hfilter, hdivisor, hsource, him, hiq, hip⟩
    obtain ⟨indexMode, him⟩ := (IndexMode.ofByte_isSome _).mpr him
    obtain ⟨indexQual, hiq⟩ := (Qualifier.ofByte_isSome _).mpr hiq
    obtain ⟨source, hsource⟩ : ∃ x, f.sourceField mode r = some x := by
      by_cases hs : mode = .revs
      · obtain ⟨x, hx⟩ := (axisOf_isSome _).mpr (hsource hs)
        exact ⟨x, (f.sourceField_iff _ _ _).mpr ⟨fun _ => hx, fun hno => absurd hs hno⟩⟩
      · exact ⟨r.source, (f.sourceField_iff _ _ _).mpr ⟨fun hno => absurd hno hs, fun _ => rfl⟩⟩
    obtain ⟨divisor, hdivisor⟩ : ∃ x, f.divisorField mode r = some x := by
      by_cases ht : mode = .timebase
      · exact ⟨f.divisor, (f.divisorField_iff _ _ _).mpr ⟨fun _ => ⟨hdivisor ht, rfl⟩, fun hno => absurd ht hno⟩⟩
      · exact ⟨r.divisor, (f.divisorField_iff _ _ _).mpr ⟨fun hno => absurd hno ht, fun _ => rfl⟩⟩
    obtain ⟨indexPreset, hip⟩ : ∃ x, f.presetField indexMode r = some x := by
      by_cases hp : indexMode.presets = true
      · have hin := (AxisFields.range_inRange hrange hr _).mpr (hip ((IndexMode.presets_iff him).mp hp))
        exact ⟨f.indexPreset, (f.presetField_iff _ _ _).mpr ⟨fun _ => ⟨hin, rfl⟩, fun hno => absurd hp hno⟩⟩
      · exact ⟨r.indexPreset, (f.presetField_iff _ _ _).mpr ⟨fun hno => absurd hno hp, fun _ => rfl⟩⟩
    exact ⟨_, r, hr, decide (f.invert.toNat = 1), f.filter, divisor, source, indexMode, indexQual, indexPreset,
      (flagOf_some_iff _ _).mpr ⟨hinvert, decide_eq_true_iff⟩, (f.filterField_iff _).mpr ⟨hfilter, rfl⟩, hdivisor, hsource, him, hiq, hip, rfl⟩

end

/-- Settles O35: an OFF record by its range alone, every other record field by field. -/
theorem axisFieldsAreChecked : Obligations.AxisFieldsAreChecked := by
  refine ⟨fun f h => ?_, fun f mode hmode range hrange => ⟨?_, fun c hc => ?_⟩⟩
  · rw [AxisFields.config_eq, AxisMode.ofByte_none h, Option.bind_none]
  · rw [Option.isSome_iff_exists]
    by_cases hoff : mode = .off
    · subst hoff
      simp only [AxisFields.config_off_iff hmode, ne_eq, not_true_eq_false, false_implies, and_true]
      rw [← AxisFields.range_isSome hrange]
      exact ⟨fun ⟨c, r, hr, _⟩ => ⟨r, hr⟩, fun ⟨r, hr⟩ => ⟨_, r, hr, rfl⟩⟩
    · rw [AxisFields.config_on_isSome hmode hoff hrange, AxisFields.range_isSome hrange]
      simp only [ne_eq, hoff, not_false_eq_true, true_implies, and_assoc]
  · by_cases hoff : mode = .off
    · subst hoff
      obtain ⟨r, hr, rfl⟩ := (AxisFields.config_off_iff hmode c).mp hc
      obtain ⟨hkind, hinitial, hrotary, hlinear, hrest⟩ := AxisFields.ranged hr
      rw [hrest]
      exact ⟨rfl, hkind, hinitial, hrotary, fun h => absurd rfl h, nofun, nofun, hlinear, fun _ => rfl, fun _ => rfl, fun _ => rfl,
        fun _ => ⟨rfl, rfl, rfl, rfl⟩⟩
    · obtain ⟨r, hr, invert, filter, divisor, source, indexMode, indexQual, indexPreset, hinvert, hfilter, hdivisor, hsource, him, hiq, hip, rfl⟩ :=
        (AxisFields.config_on_iff hmode hoff c).mp hc
      obtain ⟨hkind, hinitial, hrotary, hlinear, hrest⟩ := AxisFields.ranged hr
      obtain ⟨hdiv, hnodiv⟩ := (f.divisorField_iff _ _ _).mp hdivisor
      obtain ⟨hsrc, hnosrc⟩ := (f.sourceField_iff _ _ _).mp hsource
      obtain ⟨hpre, hnopre⟩ := (f.presetField_iff _ _ _).mp hip
      have hpresets := IndexMode.presets_iff him
      refine ⟨rfl, hkind, hinitial, hrotary, fun _ => ⟨((flagOf_some_iff _ _).mp hinvert).2, ((f.filterField_iff _).mp hfilter).2.symm, him, hiq,
        fun h2 => (hpre (hpresets.mpr h2)).2.symm⟩, fun ht => (hdiv ht).2.symm, fun hs => axisOf_val (hsrc hs), hlinear, fun ht => ?_, fun hs => ?_,
        fun hno => ?_, fun h => absurd h hoff⟩
      · exact (hnodiv ht).symm.trans (by rw [hrest]; rfl)
      · exact (hnosrc hs).symm.trans (by rw [hrest]; rfl)
      · refine (hnopre fun hp => ?_).symm.trans (by rw [hrest]; rfl)
        rcases hno with h | h
        · exact hoff h
        · exact absurd (hpresets.mp hp) (Nat.not_le.mpr h)

end Sys2Proof.Machine
end

section
/-! The mark commands: DEFINE_MARK and DELETE_MARK (O38), ARM_MARKS and DISARM_MARKS (O40), MOVE_MARK (O41). -/

namespace Sys2Proof.Machine

/-! ### DEFINE_MARK and DELETE_MARK -/

theorem Mark.active_iff (m : Mark) : m.active = true ↔ m.state = .armed ∨ m.state = .rearming := decide_eq_true_iff

theorem Mark.inactive_of {m : Mark} (h : m.state = .disarmed ∨ m.state = .spent) : m.active = false := by
  rw [Bool.eq_false_iff, ne_eq, Mark.active_iff]
  rcases h with h | h <;> rw [h] <;> decide

/-- The operands of DEFINE_MARK, as fields, an id and a list of the length its count gives (R38). -/
theorem defineMarkAnswer_eq {f : MarkFields} {id b0 b1 b2 b3 h0 h1 s0 s1 s2 s3 c0 c1 count : Byte} (hbase : f.base = leInt b0 b1 b2 b3)
    (hband : f.band = le16 h0 h1) (hstep : f.step = le32 s0 s1 s2 s3) (hcount : f.count = le16 c0 c1) (hentries : f.entryCount = count.toNat)
    (hlength : f.entries.length = 7 * count.toNat) (u : State) :
    defineMarkAnswer ([id, f.axis, f.kind, f.qual, b0, b1, b2, b3, f.group, f.report, h0, h1, s0, s1, s2, s3, c0, c1, count] ++ f.entries) u =
      match f.mark (markOf id) (fun a => (u.axis a).config) with
      | some m => u.defineMark m
      | none => u.refuse .badArgument := by
  obtain ⟨axis, kind, qual, base, group, report, band, step, markCount, entryCount, entries⟩ := f
  dsimp only at hbase hband hstep hcount hentries hlength
  subst hbase hband hstep hcount hentries
  exact if_neg (not_not.mpr hlength)

theorem State.defineMark_active {u : State} {m old : Mark} (hold : u.mark m.id = some old) (h : old.state = .armed ∨ old.state = .rearming) :
    u.defineMark m = u.refuse .markActive := by
  refine if_pos ?_
  rw [State.markActive, hold]
  exact old.active_iff.mpr h

theorem State.defineMark_idle {u : State} {m : Mark} (h : ∀ old, u.mark m.id = some old → old.state = .disarmed ∨ old.state = .spent) :
    u.defineMark m = (u.putMark m).answer (u.markByte m.id) := by
  refine if_neg ?_
  rw [State.markActive]
  cases hold : u.mark m.id with
  | none => exact Bool.false_ne_true
  | some old => rw [Option.any_some, Mark.inactive_of (h old hold)]; exact Bool.false_ne_true

/-- The state of a mark that is not ARMED or REARMING, as a reply carries it (Table 11-12). -/
theorem State.markByte_idle {u : State} {id : MarkId} (h : ∀ old, u.mark id = some old → old.state = .disarmed ∨ old.state = .spent) :
    u.markByte id = [(match (u.mark id).map Mark.state with
      | none => 0
      | some MarkState.spent => 4
      | some _ => 1 : Byte)] := by
  rw [State.markByte]
  cases hold : u.mark id with
  | none => rfl
  | some old =>
    rw [Option.map_some]
    rcases h old hold with hs | hs <;> rw [hs] <;> rfl

/-- The fields of a record that DEFINE_MARK makes (R39). -/
theorem MarkFields.mark_starts {f : MarkFields} {id : MarkId} {config : Axis → AxisConfig} {m : Mark} (h : f.mark id config = some m) :
    m.id = id ∧ m.state = .disarmed ∧ m.target = m.base ∧ m.fires = 0 ∧ m.lastFire = none := by
  obtain ⟨axis, qual, kind, group, report, actions, -, -, -, -, -, -, -, -, rfl⟩ := MarkFields.mark_eq_some.mp h
  exact ⟨rfl, rfl, rfl, rfl, rfl⟩

/-- Settles O38: DEFINE_MARK by its fields and the mark it replaces, DELETE_MARK by the mark it finds. -/
theorem defineAndDeleteMark : Obligations.DefineAndDeleteMark := by
  refine ⟨fun s e rest u id f b0 b1 b2 b3 h0 h1 s0 s1 s2 s3 c0 c1 count h hbase hband hstep hcount hentries hlength hp => ?_,
    fun s e rest u id h hp => ?_⟩
  · have hexec : exec .defineMark s = .next ((defineMarkAnswer
        ([id, f.axis, f.kind, f.qual, b0, b1, b2, b3, f.group, f.report, h0, h1, s0, s1, s2, s3, c0, c1, count] ++ f.entries) u).reply e) :=
      exec_answers h hp rfl rfl
    rw [defineMarkAnswer_eq hbase hband hstep hcount hentries hlength] at hexec
    refine ⟨fun hnone => by rw [hexec, hnone]; rfl, fun m hm => ?_⟩
    rw [hm] at hexec
    obtain ⟨hid, hstate, htarget, hfires, hlast⟩ := MarkFields.mark_starts hm
    refine ⟨hid, hstate, htarget, hfires, hlast, fun ⟨old, hold, hactive⟩ => ?_, fun hidle => ?_⟩
    · rw [hexec]
      dsimp only
      rw [State.defineMark_active (hid ▸ hold) hactive]
      rfl
    · rw [hexec]
      dsimp only
      rw [State.defineMark_idle (by rw [hid]; exact hidle), hid, State.markByte_idle hidle]
      rfl
  · have hexec := exec_answers h hp rfl rfl
    rw [deleteMarkAnswer] at hexec
    refine ⟨fun hnone => ?_, fun m hm hactive => ?_, fun m hm hidle => ?_⟩
    · rw [hexec, hnone]
      rfl
    · rw [hexec, hm]
      dsimp only
      rw [if_pos (m.active_iff.mpr hactive)]
      rfl
    · rw [hexec, hm]
      dsimp only
      rw [if_neg (by rw [Mark.inactive_of hidle]; exact Bool.false_ne_true)]
      rfl

/-! ### ARM_MARKS and DISARM_MARKS -/

/-- A list of marks is its ids one after another, with two bytes of reply for each (R41, R42). -/
theorem State.eachMark_eq_foldl (op : State → MarkId → State × MarkResult) (ids : List MarkId) (u : State) :
    (u.eachMark op ids).1 = ids.foldl (fun t id => (op t id).1) u ∧
      ∀ data : List Byte, data ++ (u.eachMark op ids).2 =
        (ids.foldl (fun (x : State × List Byte) id => ((op x.1 id).1, x.2 ++ [BitVec.ofNat 8 (markStateCode ((x.1.mark id).map (·.state))),
          BitVec.ofNat 8 (op x.1 id).2.code])) (u, data)).2 := by
  induction ids generalizing u with
  | nil => exact ⟨rfl, fun data => List.append_nil data⟩
  | cons id rest ih =>
    obtain ⟨hstate, hdata⟩ := ih (op u id).1
    refine ⟨hstate, fun data => ?_⟩
    rw [List.foldl_cons, ← hdata, List.append_assoc]
    rfl

theorem State.armMark_defined {t : State} {id : MarkId} {m : Mark} {p : Int} (hm : t.mark id = some m) (hp : t.positionRead m.axis = p) :
    t.armMark id =
      if m.active then (t, .alreadyArmed)
      else if m.armable (t.axis m.axis).config p then (t.putMark (m.arm (t.axis m.axis).config p), .ok)
      else (t, .outOfRange) := by
  rw [State.armMark, hm]
  dsimp only
  rw [hp]

theorem State.armMark_ok {t : State} {id : MarkId} {m n : Mark} {p : Int} (hm : t.mark id = some m) (hp : t.positionRead m.axis = p)
    (ha : m.active = false) (hok : m.armable (t.axis m.axis).config p = true) (hn : m.arm (t.axis m.axis).config p = n) :
    t.armMark id = (t.putMark n, .ok) := by
  rw [State.armMark_defined hm hp, if_neg (by rw [ha]; exact Bool.false_ne_true), if_pos hok, hn]

theorem State.armMark_outOfRange {t : State} {id : MarkId} {m : Mark} {p : Int} (hm : t.mark id = some m) (hp : t.positionRead m.axis = p)
    (ha : m.active = false) (hno : m.armable (t.axis m.axis).config p = false) : t.armMark id = (t, .outOfRange) := by
  rw [State.armMark_defined hm hp, if_neg (by rw [ha]; exact Bool.false_ne_true), if_neg (by rw [hno]; exact Bool.false_ne_true)]

/-- A mark that is not a PITCH mark is armable on a LINEAR axis, and on a ROTARY axis with its base in range (R33). -/
theorem Mark.armable_of_fixed {m : Mark} {c : AxisConfig} (hkind : m.kind = .once ∨ ∃ h, m.kind = .repeating h) (p : Int)
    (h : c.kind = .linear ∨ c.inRange m.base = true) : m.armable c p = true := by
  unfold Mark.armable
  cases hc : c.kind with
  | linear => rcases hkind with hk | ⟨b, hk⟩ <;> rw [hk]
  | rotary =>
    have hin : c.inRange m.base = true := h.resolve_left (by rw [hc]; decide)
    rcases hkind with hk | ⟨b, hk⟩ <;> rw [hk] <;> exact hin

theorem Mark.armable_rotary_false {m : Mark} {c : AxisConfig} (hc : c.kind = .rotary) (p : Int)
    (h : c.inRange m.base = false ∨ ∃ st count r, m.kind = .pitch st count r ∧ c.modulus ≤ st) : m.armable c p = false := by
  unfold Mark.armable
  rw [hc]
  rcases h with hout | ⟨st, count, r, hk, hst⟩
  · cases m.kind <;> simp [hout]
  · rw [hk]
    dsimp only
    rw [Bool.and_eq_false_iff]
    exact .inr (decide_eq_false (by omega))

theorem Mark.armable_pitch_rotary {m : Mark} {c : AxisConfig} {st : Nat} {count r : Option Nat} (hk : m.kind = .pitch st count r)
    (hc : c.kind = .rotary) (hin : c.inRange m.base = true) (hst : st < c.modulus) (p : Int) : m.armable c p = true := by
  unfold Mark.armable
  rw [hc, hk]
  dsimp only
  rw [hin, Bool.true_and, decide_eq_true_iff]
  omega

theorem Mark.armable_pitch_linear {m : Mark} {c : AxisConfig} {st : Nat} {count r : Option Nat} (hk : m.kind = .pitch st count r)
    (hc : c.kind = .linear) (p : Int) : m.armable c p = inLinear (alignedTarget m.qual m.base st p) := by
  unfold Mark.armable
  rw [hc, hk]

/-- The position an arming reads, said from outside and from inside an arrival (R33, R59, R82). -/
theorem State.positionRead_of {t : State} {a : Axis} {p : Int} (hout : (∀ r ∈ t.mks.arrival, r.axis ≠ a) → p = (t.axis a).pos)
    (hin : ∀ r ∈ t.mks.arrival, r.axis = a → p = r.reads) : t.positionRead a = p := by
  unfold State.positionRead
  cases hr : t.mks.arrival with
  | none => exact (hout (by rw [hr]; nofun)).symm
  | some r =>
    dsimp only
    split
    next ha => exact (hin r hr ha).symm
    next ha =>
      refine (hout fun x hx => ?_).symm
      obtain rfl : r = x := Option.some.inj (hr.symm.trans hx)
      exact ha

/-- Settles O40: the list by its count, then each mark by its state, its kind and its axis. -/
theorem armAndDisarmMarks : Obligations.ArmAndDisarmMarks := by
  intro s e rest u code count ids h hcode hp hlength
  have hexec : ∀ op, op = (if code = 0x22 then State.armMark else State.disarmMark) →
      exec e.row s = .next ((markListAnswer op (count :: ids) u).reply e) := by
    rintro op rfl
    rcases hcode with rfl | rfl <;> rw [Entry.row_of_code h.1 hp rfl] <;> exact exec_answers h hp rfl rfl
  refine ⟨fun hbad => ?_, fun hlow hhigh op hop => ?_, fun t id m x p hm hx hout hin => ?_, fun t id hnone => ⟨?_, ?_⟩⟩
  · rw [hexec _ rfl, markListAnswer, if_neg (not_not.mpr hlength), if_neg]
    · rfl
    · rintro ⟨hlow, hhigh⟩
      rcases hbad with rfl | hbad
      · exact absurd hlow (by decide)
      · omega
  · obtain ⟨hstate, hdata⟩ := State.eachMark_eq_foldl op (ids.map markOf) u
    rw [hexec op hop, markListAnswer, if_neg (not_not.mpr hlength), if_pos ⟨hlow, hhigh⟩]
    dsimp only
    rw [hstate, ← hdata]
    rfl
  · have hread : t.positionRead m.axis = p := State.positionRead_of (hx ▸ hout) hin
    subst hx
    refine ⟨?_, fun ha => ?_, fun ha hc hbad => ?_, fun ha hk hc => ?_, fun b ha hk hc => ?_, fun st c r ha hk hc hbase hst => ?_,
      fun st c r target ha hk hc ht => ⟨fun hlow hhigh => ?_, fun hout => ?_⟩⟩
    · rw [State.disarmMark, hm]
      rfl
    · rw [State.armMark_defined hm hread, if_pos ha]
    · exact State.armMark_outOfRange hm hread ha (Mark.armable_rotary_false hc p hbad)
    · exact State.armMark_ok hm hread ha (Mark.armable_of_fixed (.inl hk) p hc) (by rw [Mark.arm, hk])
    · refine State.armMark_ok hm hread ha (Mark.armable_of_fixed (.inr ⟨b, hk⟩) p hc) ?_
      rw [Mark.arm, hk]
      dsimp only
      by_cases hb : b ≤ (t.axis m.axis).config.distance p m.base
      · rw [if_pos hb, if_neg (Nat.not_lt.mpr hb)]
      · rw [if_neg hb, if_pos (Nat.lt_of_not_le hb)]
    · exact State.armMark_ok hm hread ha (Mark.armable_pitch_rotary hk hc hbase hst p) (by rw [Mark.arm, hk, hc])
    · refine State.armMark_ok hm hread ha ?_ (by rw [Mark.arm, hk, hc, ht])
      rw [Mark.armable_pitch_linear hk hc, ← ht, inLinear_iff]
      exact ⟨hlow, hhigh⟩
    · refine State.armMark_outOfRange hm hread ha ?_
      rw [Mark.armable_pitch_linear hk hc, ← ht, Bool.eq_false_iff, ne_eq, inLinear_iff]
      omega
  · rw [State.armMark, hnone]
  · rw [State.disarmMark, hnone]

/-! ### MOVE_MARK -/

theorem moveFormOf_eq {form : Byte} (h : form.toNat ≤ 1) : moveFormOf form = some (decide (form = 1)) := by
  rcases byte_flag h with rfl | rfl <;> rfl

/-- MOVE_MARK of a defined mark that is not SPENT (R45). -/
theorem moveMarkAnswer_defined {u : State} {id form v0 v1 v2 v3 : Byte} {m : Mark} (hf : form.toNat ≤ 1) (hm : u.mark (markOf id) = some m) :
    moveMarkAnswer [id, form, v0, v1, v2, v3] u =
      if m.state = .spent then u.refuse .markSpent
      else
        match m.move (u.axis m.axis) (decide (form = 1)) (leInt v0 v1 v2 v3) with
        | none => u.refuse .badArgument
        | some moved => (u.putMark moved).answer (putPos m.target ++ putPos moved.target ++ put8 moved.state.code) := by
  rw [moveMarkAnswer, moveFormOf_eq hf, hm] <;> rfl

/-- The target that a move gives, where R45 accepts it. -/
theorem movedTarget_eq_some {c : AxisConfig} {form : Byte} {target old v : Int} (hf : form.toNat ≤ 1)
    (h : (c.kind = .linear ∧ form = 0 ∧ target = v) ∨
      (c.kind = .linear ∧ form = 1 ∧ target = old + v ∧ -2147483648 ≤ target ∧ target ≤ 2147483647) ∨
      (c.kind = .rotary ∧ form = 0 ∧ target = v ∧ 0 ≤ v ∧ v < c.modulus) ∨ (c.kind = .rotary ∧ form = 1 ∧ target = (old + v) % c.modulus)) :
    movedTarget c (decide (form = 1)) old v = some target := by
  unfold movedTarget
  rcases h with ⟨hk, rfl, rfl⟩ | ⟨hk, rfl, rfl, hlow, hhigh⟩ | ⟨hk, rfl, rfl, hlow, hhigh⟩ | ⟨hk, rfl, rfl⟩ <;> rw [hk]
  · rfl
  · exact if_pos ((inLinear_iff _).mpr ⟨hlow, hhigh⟩)
  · refine if_pos ?_
    rw [AxisConfig.inRange, hk]
    exact Bool.and_eq_true_iff.mpr ⟨decide_eq_true hlow, decide_eq_true hhigh⟩
  · rfl

theorem movedTarget_eq_none {c : AxisConfig} {form : Byte} {old v : Int}
    (h : (c.kind = .rotary ∧ form = 0 ∧ (v < 0 ∨ c.modulus ≤ v)) ∨
      (c.kind = .linear ∧ form = 1 ∧ (old + v < -2147483648 ∨ 2147483647 < old + v))) :
    movedTarget c (decide (form = 1)) old v = none := by
  unfold movedTarget
  rcases h with ⟨hk, rfl, hout⟩ | ⟨hk, rfl, hout⟩ <;> rw [hk]
  · refine if_neg ?_
    rw [AxisConfig.inRange, hk]
    dsimp only
    rw [Bool.and_eq_true, decide_eq_true_iff, decide_eq_true_iff]
    omega
  · refine if_neg ?_
    rw [inLinear_iff]
    omega

/-- A moved record: its target, its base unless it is a PITCH mark, and its state after the band check (R46). -/
theorem Mark.retarget_bandCheck (m : Mark) (c : AxisConfig) (p target : Int) :
    (m.retarget target).bandCheck c p =
      { m with
        target := target
        base := (match m.kind with | .pitch _ _ _ => m.base | _ => target)
        state :=
          (match m.kind with
          | .repeating h => if m.state = .rearming ∧ h ≤ c.distance p target then .armed else m.state
          | _ => m.state) } := by
  obtain ⟨id, state, axis, kind, qual, base, old, group, report, actions, fires, lastFire⟩ := m
  cases kind with
  | once => cases state <;> rfl
  | pitch => cases state <;> rfl
  | repeating h =>
    cases state with
    | rearming =>
      by_cases hout : h ≤ c.distance p target
      · exact (if_pos hout).trans (by simp only [hout, and_self, if_true]; rfl)
      · exact (if_neg hout).trans (by simp only [hout, and_false, if_false]; rfl)
    | _ => rfl

/-- Settles O41: the refusals of R45 in their order, and the moved record. -/
theorem moveMarkShiftsTarget : Obligations.MoveMarkShiftsTarget := by
  intro s e rest u id form v0 v1 v2 v3 v h hp hv
  have hexec := exec_answers h hp rfl rfl
  refine ⟨fun hf => ?_, fun hf hnone => ?_, fun m x hf hm hx => ?_⟩
  · rw [hexec, moveMarkAnswer, moveFormOf, flagOf_none hf]
    rfl
  · rw [hexec, moveMarkAnswer, moveFormOf_eq hf, hnone]
    rfl
  · rw [moveMarkAnswer_defined hf hm, ← hx, ← hv, Mark.move] at hexec
    refine ⟨fun hspent => ?_, fun hspent hkind hform hout => ?_, fun hspent hkind hform hout => ?_, fun target moved hspent hok hmoved => ?_⟩
    · rw [hexec, if_pos hspent]
      rfl
    · rw [hexec, if_neg hspent, movedTarget_eq_none (.inl ⟨hkind, hform, hout⟩)]
      rfl
    · rw [hexec, if_neg hspent, movedTarget_eq_none (.inr ⟨hkind, hform, hout⟩)]
      rfl
    · have hmove : (m.retarget target).bandCheck x.config x.pos = moved := (m.retarget_bandCheck x.config x.pos target).trans hmoved.symm
      have htarget : moved.target = target := by rw [hmoved]
      rw [hexec, if_neg hspent, movedTarget_eq_some hf hok, Option.map_some, hmove]
      dsimp only
      rw [htarget]
      rfl

end Sys2Proof.Machine
end

section
/-! The fields of DEFINE_MARK, one by one (O39). -/

namespace Sys2Proof.Machine

/-! ### Identifiers and enumerations -/

theorem lineOf_some_iff (b : Byte) (n : LineNo) : lineOf b = some n ↔ b.toNat = n.val := by
  refine ⟨fun h => ?_, lineOf_eq⟩
  by_contra hne
  by_cases hlt : b.toNat < 16
  · rw [lineOf_eq (n := ⟨b.toNat, hlt⟩) rfl] at h
    exact hne (congrArg Fin.val (Option.some.inj h))
  · rw [lineOf_none (by omega)] at h
    cases h

theorem groupOf_some_iff (b : Byte) (g : GroupNo) : groupOf b = some g ↔ b.toNat = g.val := by
  refine ⟨fun h => ?_, groupOf_eq⟩
  by_contra hne
  by_cases hlt : b.toNat < 16
  · rw [groupOf_eq (g := ⟨b.toNat, hlt⟩) rfl] at h
    exact hne (congrArg Fin.val (Option.some.inj h))
  · rw [groupOf_none (by omega)] at h
    cases h

theorem axisOf_some_iff (b : Byte) (a : Axis) : axisOf b = some a ↔ b.toNat = a.val :=
  ⟨fun h => (axisOf_val h).symm, axisOf_eq⟩

theorem Level.code_le (v : Level) : Level.code v ≤ 1 := by
  cases v <;> decide

theorem levelOf_some_iff (b : Byte) (v : Level) : levelOf b = some v ↔ b.toNat = Level.code v := by
  revert b
  cases v <;> decide +kernel

theorem Qualifier.ofByte_some_iff (b : Byte) (q : Qualifier) : Qualifier.ofByte b = some q ↔ b.toNat = q.code := by
  revert b
  cases q <;> decide +kernel

/-! ### One action entry (Table 11-3) -/

/-- The action that an entry of kind `k`, operands `o1` and `o2` and value `w` (`v` as a position) describes. -/
def Action.written (x : Action) (k o1 o2 : Byte) (w : Nat) (v : Int) : Prop :=
  match x with
  | .pulse n l c => k = 1 ∧ o1.toNat = n.val ∧ o2.toNat = Level.code l ∧ w = c
  | .set n l => k = 2 ∧ o1.toNat = n.val ∧ o2.toNat = Level.code l
  | .toggle n => k = 3 ∧ o1.toNat = n.val
  | .snapshot mask => k = 4 ∧ o1 = mask
  | .preset b c => k = 5 ∧ o1.toNat = b.val ∧ v = c
  | .armGroup g => k = 6 ∧ o1.toNat = g.val
  | .disarmGroup g => k = 7 ∧ o1.toNat = g.val

/-- The entries that DEFINE_MARK accepts. -/
def entryAccepted (k o1 o2 : Byte) (w : Nat) : Prop :=
  (k = 1 ∧ o1.toNat < 16 ∧ o2.toNat ≤ 1 ∧ 1 ≤ w ∧ w ≤ 1000000) ∨ (k = 2 ∧ o1.toNat < 16 ∧ o2.toNat ≤ 1) ∨ (k = 3 ∧ o1.toNat < 16) ∨
    (k = 4 ∧ o1 ≠ 0) ∨ (k = 5 ∧ o1.toNat < 8) ∨ ((k = 6 ∨ k = 7) ∧ o1.toNat < 16)

/-- An entry is read back as the action it describes, with a pulse width in range and a snapshot mask that is not empty. -/
theorem actionOf_eq_some {k o1 o2 : Byte} {w : Nat} {v : Int} {x : Action} :
    actionOf k o1 o2 w v = some x ↔ x.written k o1 o2 w v ∧ entryAccepted k o1 o2 w := by
  constructor
  · intro h
    unfold actionOf at h
    split at h
    all_goals rename_i hk
    all_goals simp only [Option.bind_eq_bind, Option.bind_eq_some_iff, Option.map_eq_some_iff, Option.ite_none_left_eq_some,
      Option.ite_none_right_eq_some, Option.some.injEq, reduceCtorEq, lineOf_some_iff, levelOf_some_iff, axisOf_some_iff, groupOf_some_iff] at h
    case h_1 =>
      obtain ⟨n, hn, l, hl, hw, rfl⟩ := h
      obtain rfl : k = 1 := BitVec.eq_of_toNat_eq hk
      exact ⟨⟨rfl, hn, hl, rfl⟩, .inl ⟨rfl, hn ▸ n.isLt, hl ▸ Level.code_le l, hw⟩⟩
    case h_2 =>
      obtain ⟨n, hn, l, hl, rfl⟩ := h
      obtain rfl : k = 2 := BitVec.eq_of_toNat_eq hk
      exact ⟨⟨rfl, hn, hl⟩, .inr (.inl ⟨rfl, hn ▸ n.isLt, hl ▸ Level.code_le l⟩)⟩
    case h_3 =>
      obtain ⟨n, hn, rfl⟩ := h
      obtain rfl : k = 3 := BitVec.eq_of_toNat_eq hk
      exact ⟨⟨rfl, hn⟩, .inr (.inr (.inl ⟨rfl, hn ▸ n.isLt⟩))⟩
    case h_4 =>
      obtain ⟨hmask, rfl⟩ := h
      obtain rfl : k = 4 := BitVec.eq_of_toNat_eq hk
      exact ⟨⟨rfl, rfl⟩, .inr (.inr (.inr (.inl ⟨rfl, hmask⟩)))⟩
    case h_5 =>
      obtain ⟨b, hb, rfl⟩ := h
      obtain rfl : k = 5 := BitVec.eq_of_toNat_eq hk
      exact ⟨⟨rfl, hb, rfl⟩, .inr (.inr (.inr (.inr (.inl ⟨rfl, hb ▸ b.isLt⟩))))⟩
    case h_6 =>
      obtain ⟨g, hg, rfl⟩ := h
      obtain rfl : k = 6 := BitVec.eq_of_toNat_eq hk
      exact ⟨⟨rfl, hg⟩, .inr (.inr (.inr (.inr (.inr ⟨.inl rfl, hg ▸ g.isLt⟩))))⟩
    case h_7 =>
      obtain ⟨g, hg, rfl⟩ := h
      obtain rfl : k = 7 := BitVec.eq_of_toNat_eq hk
      exact ⟨⟨rfl, hg⟩, .inr (.inr (.inr (.inr (.inr ⟨.inr rfl, hg ▸ g.isLt⟩))))⟩
  · rintro ⟨hwritten, haccepted⟩
    cases x with
    | pulse n l c =>
      obtain ⟨rfl, hn, hl, rfl⟩ := hwritten
      have hw : o1.toNat < 16 ∧ o2.toNat ≤ 1 ∧ 1 ≤ w ∧ w ≤ 1000000 := by simpa [entryAccepted] using haccepted
      simp [actionOf, lineOf_eq hn, (levelOf_some_iff o2 l).mpr hl, hw]
    | set n l =>
      obtain ⟨rfl, hn, hl⟩ := hwritten
      simp [actionOf, lineOf_eq hn, (levelOf_some_iff o2 l).mpr hl]
    | toggle n =>
      obtain ⟨rfl, hn⟩ := hwritten
      simp [actionOf, lineOf_eq hn]
    | snapshot mask =>
      obtain ⟨rfl, rfl⟩ := hwritten
      have hmask : o1 ≠ 0 := by simpa [entryAccepted] using haccepted
      simpa [actionOf] using hmask
    | preset b c =>
      obtain ⟨rfl, hb, rfl⟩ := hwritten
      simp [actionOf, axisOf_eq hb]
    | armGroup g =>
      obtain ⟨rfl, hg⟩ := hwritten
      simp [actionOf, groupOf_eq hg]
    | disarmGroup g =>
      obtain ⟨rfl, hg⟩ := hwritten
      simp [actionOf, groupOf_eq hg]

theorem levelOf_exists {b : Byte} (h : b.toNat ≤ 1) : ∃ l : Level, b.toNat = Level.code l := by
  rcases byte_flag h with rfl | rfl
  · exact ⟨.low, rfl⟩
  · exact ⟨.high, rfl⟩

theorem actionOf_isSome {k o1 o2 : Byte} {w : Nat} {v : Int} : (actionOf k o1 o2 w v).isSome = true ↔ entryAccepted k o1 o2 w := by
  rw [Option.isSome_iff_exists]
  refine ⟨fun ⟨x, hx⟩ => (actionOf_eq_some.mp hx).2, fun haccepted => ?_⟩
  have hwritten : ∃ x : Action, x.written k o1 o2 w v := by
    rcases haccepted with ⟨hk, hn, hl, -⟩ | ⟨hk, hn, hl⟩ | ⟨hk, hn⟩ | ⟨hk, -⟩ | ⟨hk, hb⟩ | ⟨hk | hk, hg⟩
    · obtain ⟨l, hl⟩ := levelOf_exists hl
      exact ⟨.pulse ⟨o1.toNat, hn⟩ l w, hk, rfl, hl, rfl⟩
    · obtain ⟨l, hl⟩ := levelOf_exists hl
      exact ⟨.set ⟨o1.toNat, hn⟩ l, hk, rfl, hl⟩
    · exact ⟨.toggle ⟨o1.toNat, hn⟩, hk, rfl⟩
    · exact ⟨.snapshot o1, hk, rfl⟩
    · exact ⟨.preset ⟨o1.toNat, hb⟩ v, hk, rfl, rfl⟩
    · exact ⟨.armGroup ⟨o1.toNat, hg⟩, hk, rfl⟩
    · exact ⟨.disarmGroup ⟨o1.toNat, hg⟩, hk, rfl⟩
  obtain ⟨x, hx⟩ := hwritten
  exact ⟨x, actionOf_eq_some.mpr ⟨hx, haccepted⟩⟩

/-! ### The kind of a new mark -/

/-- The kinds that DEFINE_MARK accepts, with the fields that belong to each (R38 checks 5 to 7). -/
def MarkFields.kindAccepted (f : MarkFields) (c : AxisConfig) : Prop :=
  f.kind = 1 ∨ (f.kind = 2 ∧ 1 ≤ f.band ∧ f.band ≤ 65535) ∨
    (f.kind = 3 ∧ f.qual ≠ 3 ∧ 1 ≤ f.step ∧ (c.kind = .linear → f.step ≤ 16777215) ∧ (c.kind = .rotary → f.step + 1 ≤ c.modulus) ∧
      f.count ≤ 65535)

/-- The largest pitch step on an axis (R38 check 7). -/
def AxisConfig.stepTop (c : AxisConfig) : Nat :=
  match c.kind with
  | .linear => 16777215
  | .rotary => c.modulus - 1

theorem AxisConfig.le_stepTop {c : AxisConfig} {n : Nat} (h : 1 ≤ n) :
    n ≤ c.stepTop ↔ (c.kind = .linear → n ≤ 16777215) ∧ (c.kind = .rotary → n + 1 ≤ c.modulus) := by
  unfold AxisConfig.stepTop
  cases c.kind with
  | linear => simp
  | rotary =>
    simp only [reduceCtorEq, false_implies, true_and, true_implies]
    omega

theorem Qualifier.ne_either {b : Byte} {q : Qualifier} (h : Qualifier.ofByte b = some q) : q ≠ .either ↔ b ≠ 3 := by
  revert b
  cases q <;> decide +kernel

theorem MarkFields.markKind_once {f : MarkFields} (h : f.kind = 1) (c : AxisConfig) (q : Qualifier) : f.markKind c q = some .once := by
  obtain ⟨_, kind, _⟩ := f
  obtain rfl : kind = 1 := h
  rfl

theorem MarkFields.markKind_repeating {f : MarkFields} (h : f.kind = 2) (c : AxisConfig) (q : Qualifier) :
    f.markKind c q = if 1 ≤ f.band ∧ f.band ≤ 65535 then some (.repeating f.band) else none := by
  obtain ⟨_, kind, _⟩ := f
  obtain rfl : kind = 2 := h
  rfl

theorem MarkFields.markKind_pitch {f : MarkFields} (h : f.kind = 3) (c : AxisConfig) (q : Qualifier) :
    f.markKind c q =
      if q ≠ .either ∧ 1 ≤ f.step ∧ f.step ≤ c.stepTop ∧ f.count ≤ 65535 then
        some (.pitch f.step (if f.count = 0 then none else some f.count) (if f.count = 0 then none else some f.count))
      else none := by
  obtain ⟨_, kind, _⟩ := f
  obtain rfl : kind = 3 := h
  rfl

theorem MarkFields.markKind_none {f : MarkFields} (h : f.kind ≠ 1 ∧ f.kind ≠ 2 ∧ f.kind ≠ 3) (c : AxisConfig) (q : Qualifier) :
    f.markKind c q = none := by
  obtain ⟨h1, h2, h3⟩ := h
  unfold MarkFields.markKind
  split
  next hk => exact absurd (BitVec.eq_of_toNat_eq hk) h1
  next hk => exact absurd (BitVec.eq_of_toNat_eq hk) h2
  next hk => exact absurd (BitVec.eq_of_toNat_eq hk) h3
  next => rfl

theorem MarkFields.markKind_isSome {f : MarkFields} {c : AxisConfig} {q : Qualifier} (hq : Qualifier.ofByte f.qual = some q) :
    (∃ kind, f.markKind c q = some kind) ↔ f.kindAccepted c := by
  rw [← Option.isSome_iff_exists, MarkFields.kindAccepted]
  by_cases h1 : f.kind = 1
  · simp [MarkFields.markKind_once h1, h1]
  by_cases h2 : f.kind = 2
  · simp [MarkFields.markKind_repeating h2, h2]
  by_cases h3 : f.kind = 3
  · have htop (h : 1 ≤ f.step) := AxisConfig.le_stepTop (c := c) h
    rw [MarkFields.markKind_pitch h3, Option.isSome_ite, Qualifier.ne_either hq, h3]
    simp only [show ((3 : Byte) = 1) = False by decide, show ((3 : Byte) = 2) = False by decide, false_and, false_or, true_and]
    refine ⟨fun ⟨hqual, hlow, hhigh, hcount⟩ => ?_, fun ⟨hqual, hlow, hlinear, hrotary, hcount⟩ => ?_⟩
    · exact ⟨hqual, hlow, ((htop hlow).mp hhigh).1, ((htop hlow).mp hhigh).2, hcount⟩
    · exact ⟨hqual, hlow, (htop hlow).mpr ⟨hlinear, hrotary⟩, hcount⟩
  · rw [MarkFields.markKind_none ⟨h1, h2, h3⟩]
    refine ⟨nofun, ?_⟩
    rintro (h | ⟨h, -⟩ | ⟨h, -⟩)
    · exact absurd h h1
    · exact absurd h h2
    · exact absurd h h3

/-! ### The record -/

theorem AxisConfig.inRange_linear {c : AxisConfig} (h : c.kind = .linear) (v : Int) :
    c.inRange v = true ↔ -2147483648 ≤ v ∧ v ≤ 2147483647 := by
  rw [AxisConfig.inRange, h]
  dsimp only
  rw [Bool.and_eq_true, decide_eq_true_iff, decide_eq_true_iff]
  rfl

theorem AxisConfig.inRange_rotary {c : AxisConfig} (h : c.kind = .rotary) (v : Int) : c.inRange v = true ↔ 0 ≤ v ∧ v < c.modulus := by
  rw [AxisConfig.inRange, h]
  simp

theorem AxisConfig.inRange_iff (c : AxisConfig) (v : Int) :
    c.inRange v = true ↔
      (c.kind = .linear → -2147483648 ≤ v ∧ v ≤ 2147483647) ∧ (c.kind = .rotary → 0 ≤ v ∧ v < c.modulus) := by
  cases h : c.kind with
  | linear => simp [AxisConfig.inRange_linear h]
  | rotary => simp [AxisConfig.inRange_rotary h]

/-- An accepted record: every field is in its values. -/
theorem MarkFields.mark_isSome {f : MarkFields} {id : MarkId} {config : Axis → AxisConfig} :
    (f.mark id config).isSome = true ↔
      (∃ a : Axis, f.axis.toNat = a.val ∧ (config a).inRange f.base = true ∧ f.kindAccepted (config a)) ∧
      (1 ≤ f.qual.toNat ∧ f.qual.toNat ≤ 3) ∧ f.group.toNat < 16 ∧ f.report.toNat ≤ 1 ∧ f.entryCount ≤ 4 ∧
      (actionsOf f.entries).isSome = true := by
  constructor
  · intro h
    obtain ⟨m, hm⟩ := Option.isSome_iff_exists.mp h
    obtain ⟨a, q, kind, g, r, actions, ha, hq, hkind, hg, hr, hcount, hact, hin, -⟩ := MarkFields.mark_eq_some.mp hm
    have hgroup := (groupOf_some_iff _ _).mp hg
    exact ⟨⟨a, (axisOf_some_iff _ _).mp ha, hin, (MarkFields.markKind_isSome hq).mp ⟨kind, hkind⟩⟩, (Qualifier.ofByte_isSome _).mp ⟨q, hq⟩,
      hgroup ▸ g.isLt, ((flagOf_some_iff _ _).mp hr).1, hcount, Option.isSome_iff_exists.mpr ⟨actions, hact⟩⟩
  · rintro ⟨⟨a, ha, hin, hkind⟩, hqual, hgroup, hreport, hcount, hact⟩
    obtain ⟨q, hq⟩ := (Qualifier.ofByte_isSome _).mpr hqual
    obtain ⟨kind, hkind⟩ := (MarkFields.markKind_isSome hq).mpr hkind
    obtain ⟨actions, hact⟩ := Option.isSome_iff_exists.mp hact
    exact Option.isSome_iff_exists.mpr ⟨_, MarkFields.mark_eq_some.mpr ⟨a, q, kind, ⟨f.group.toNat, hgroup⟩, decide (f.report = 1), actions,
      axisOf_eq ha, hq, hkind, groupOf_eq rfl, flagOf_eq hreport, hcount, hact, hin, rfl⟩⟩

/-- Settles O39: a record is accepted when its fields and each of its entries are, and holds them as they were sent. -/
theorem markFieldsAreChecked : Obligations.MarkFieldsAreChecked := by
  intro f id config byte width hlength hbyte hwidth
  have hentry (k : Nat) : actionAt f.entries k =
      actionOf (byte k 0) (byte k 1) (byte k 2) (width k) (leInt (byte k 3) (byte k 4) (byte k 5) (byte k 6)) := by
    simp only [actionAt, hwidth, hbyte, Nat.add_zero]
  refine ⟨?_, fun m hm => ?_⟩
  · rw [MarkFields.mark_isSome, actionsOf_isSome hlength]
    simp only [hentry, actionOf_isSome, AxisConfig.inRange_iff, and_assoc]
    rfl
  · obtain ⟨a, q, kind, g, r, actions, ha, hq, hkind, hg, hr, -, hact, -, rfl⟩ := MarkFields.mark_eq_some.mp hm
    obtain ⟨hcount, hactions⟩ := (actionsOf_eq_some hlength actions).mp hact
    refine ⟨rfl, ((axisOf_some_iff _ _).mp ha).symm, ((Qualifier.ofByte_some_iff _ _).mp hq).symm, rfl, ((groupOf_some_iff _ _).mp hg).symm, ?_,
      fun h => ?_, fun h => ?_, fun h hzero => ?_, fun h hcount => ?_, hcount, fun k x hx => ?_⟩
    · rw [((flagOf_some_iff _ _).mp hr).2]
      exact ⟨fun h => BitVec.eq_of_toNat_eq h, fun h => congrArg BitVec.toNat h⟩
    · rw [MarkFields.markKind_once h] at hkind
      exact (Option.some.inj hkind).symm
    · rw [MarkFields.markKind_repeating h, Option.ite_none_right_eq_some] at hkind
      exact (Option.some.inj hkind.2).symm
    · rw [MarkFields.markKind_pitch h, Option.ite_none_right_eq_some, if_pos hzero] at hkind
      exact (Option.some.inj hkind.2).symm
    · rw [MarkFields.markKind_pitch h, Option.ite_none_right_eq_some, if_neg hcount] at hkind
      exact (Option.some.inj hkind.2).symm
    · have hk : k < f.entryCount := hcount ▸ (List.getElem?_eq_some_iff.mp hx).1
      have hwritten := (actionOf_eq_some.mp ((hentry k).symm.trans ((hactions k hk).trans hx))).1
      cases x <;> exact hwritten

end Sys2Proof.Machine
end

section
/-! The line commands: CONFIG_LINE and READ_LINES (O42), DRIVE_LINE (O43). -/

namespace Sys2Proof.Machine

/-! ### CONFIG_LINE and READ_LINES -/

theorem Owner.ofByte_flag {b : Byte} (h : b.toNat ≤ 1) : Owner.ofByte b = some (if b = 1 then .mark else .host) := by
  rcases byte_flag h with rfl | rfl <;> rfl

theorem Policy.ofByte_flag {b : Byte} (h : b.toNat ≤ 1) : Policy.ofByte b = some (if b = 1 then .restart else .refuse) := by
  rcases byte_flag h with rfl | rfl <;> rfl

theorem levelOf_flag {b : Byte} (h : b.toNat ≤ 1) : levelOf b = some (if b = 1 then .high else .low) := by
  rcases byte_flag h with rfl | rfl <;> rfl

/-- CONFIG_LINE refuses a field outside its values (R93). -/
theorem configLineAnswer_refuse {n owner safe policy : Byte}
    (h : 16 ≤ n.toNat ∨ 1 < owner.toNat ∨ 1 < safe.toNat ∨ 1 < policy.toNat) (u : State) :
    configLineAnswer [n, owner, safe, policy] u = u.refuse .badArgument := by
  rw [configLineAnswer]
  split
  next hl ho hv hp =>
    exfalso
    rcases h with h | h | h | h
    · rw [lineOf_none h] at hl; cases hl
    · rw [Owner.ofByte_none h] at ho; cases ho
    · rw [levelOf_none h] at hv; cases hv
    · rw [Policy.ofByte_none h] at hp; cases hp
  next => rfl

/-- The time remaining of a pulse is rounded up to a microsecond, and is 1 to 1,000,000 for a pulse in its range (R96). -/
theorem Pulse.remaining_eq {p : Pulse} {t : Tick} (h : p.endTick ≠ t) (fresh : Nat) (n : LineNo) :
    p.remaining t fresh n = ((p.endTick - t).toNat + 9) / 10 := by
  rw [Pulse.remaining, if_neg h]
  rfl

theorem Pulse.remaining_range {p : Pulse} {t : Tick} (h : (p.endTick - t).toNat ≤ 10000000) (fresh : Nat) (n : LineNo) :
    1 ≤ p.remaining t fresh n ∧ p.remaining t fresh n ≤ 1000000 := by
  by_cases hend : p.endTick = t
  · rw [Pulse.remaining, if_pos hend]
    omega
  · rw [Pulse.remaining_eq hend]
    have hpos : (p.endTick - t).toNat ≠ 0 := by bv_omega
    omega

/-- The time remaining that READ_LINES shows for a line: 0 with no pulse (R96). -/
def Line.shownLeft (l : Line) (t : Tick) (fresh : Nat) (n : LineNo) : Nat := (l.pulse.map fun p => p.remaining t fresh n).getD 0

theorem putLine_eq (l : Line) (t : Tick) (fresh : Nat) (n : LineNo) :
    putLine l t fresh n =
      put8 l.owner.code ++ put8 (Level.code l.safe) ++ put8 l.policy.code ++ put8 (Level.code l.level)
        ++ put8 (match l.pulse with | some p => Level.code p.level | none => 0) ++ put32 (l.shownLeft t fresh n) ++ put16 l.collisions := by
  rw [putLine, Line.shownLeft]
  cases l.pulse <;> rfl

/-- The lines after a READ_LINES with the flag `clear`. -/
def State.linesRead (s : State) (clear : Bool) : Vector Line 16 := if clear then mapUnits Line.clearCount s.lines else s.lines

theorem State.linesRead_getElem (s : State) (clear : Bool) (n : LineNo) :
    (s.linesRead clear)[n.val] = if clear = true then { s.line n with collisions := 0 } else s.line n := by
  cases clear with
  | false => rfl
  | true => exact mapUnits_getElem Line.clearCount s.lines n.val n.isLt

theorem readLinesAnswer_flag {flag : Byte} (h : flag.toNat ≤ 1) (s : State) :
    readLinesAnswer [flag] s = ({ s with lines := s.linesRead (decide (flag = 1)), freeIndex := s.freeIndex + 1 } : State).answer (linesData s) := by
  rcases byte_flag h with rfl | rfl <;> rfl

/-- Settles O42: CONFIG_LINE by its fields, READ_LINES by its flag, the time remaining by the end tick of the pulse. -/
theorem configLineAndReadLines : Obligations.ConfigLineAndReadLines := by
  refine ⟨fun s e rest n owner safe policy h hp => ?_, fun s e rest flag h hp => ?_⟩
  · have hexec := exec_answers_named h hp rfl rfl rfl
    refine ⟨fun hbad => ?_, fun l hl ho hv hpol => ?_⟩
    · rw [hexec, configLineAnswer_refuse hbad]
      rfl
    · rw [hexec, configLineAnswer, lineOf_eq hl, Owner.ofByte_flag ho, levelOf_flag hv, Policy.ofByte_flag hpol]
      rfl
  · have hexec := exec_answers_named h hp rfl rfl rfl
    refine ⟨fun hbad => ?_, fun hflag => ?_⟩
    · rw [hexec, readLinesAnswer, flagOf_none hbad]
      rfl
    · refine ⟨fun n => (s.line n).shownLeft s.tick s.freeIndex n, s.linesRead (decide (flag = 1)), fun n hnone => ?_, fun n p hpulse => ?_,
        fun n => ?_, ?_⟩
      · dsimp only
        rw [Line.shownLeft, hnone]
        rfl
      · have hleft : (s.line n).shownLeft s.tick s.freeIndex n = p.remaining s.tick s.freeIndex n := by
          rw [Line.shownLeft, Option.mem_def.mp hpulse]
          rfl
        dsimp only
        rw [hleft]
        exact ⟨fun hend => Pulse.remaining_eq hend _ _, fun hrange => Pulse.remaining_range hrange _ _⟩
      · rw [State.linesRead_getElem]
        simp only [decide_eq_true_eq]
      · rw [hexec, readLinesAnswer_flag hflag, State.answer_reply, linesData]
        simp only [putLine_eq]
        rfl

/-! ### DRIVE_LINE -/

/-- The request of DRIVE_LINE from its operation, its level and its width (R94). -/
theorem lineRequestOf_set {level : Byte} (h : level.toNat ≤ 1) (w : Nat) :
    lineRequestOf 1 level w = some (.set (if level = 1 then .high else .low)) := by
  rcases byte_flag h with rfl | rfl <;> rfl

theorem lineRequestOf_three (level : Byte) (w : Nat) :
    lineRequestOf 3 level w = (levelOf level).bind fun l => if 1 ≤ w ∧ w ≤ 1000000 then some (LineRequest.pulse l w) else none := rfl

theorem lineRequestOf_pulse {level : Byte} {w : Nat} (h : level.toNat ≤ 1) (hlow : 1 ≤ w) (hhigh : w ≤ 1000000) :
    lineRequestOf 3 level w = some (.pulse (if level = 1 then .high else .low) w) := by
  rw [lineRequestOf_three, levelOf_flag h, Option.bind_some, if_pos ⟨hlow, hhigh⟩]

theorem lineRequestOf_none {op level : Byte} {w : Nat}
    (h : op = 0 ∨ 3 < op.toNat ∨ ((op = 1 ∨ op = 3) ∧ 1 < level.toNat) ∨ (op = 3 ∧ (w = 0 ∨ 1000000 < w))) :
    lineRequestOf op level w = none := by
  rcases h with rfl | hop | ⟨rfl | rfl, hlevel⟩ | ⟨rfl, hw⟩
  · rfl
  · unfold lineRequestOf
    split
    · omega
    · omega
    · omega
    · rfl
  · change (levelOf level).map _ = _
    rw [levelOf_none hlevel, Option.map_none]
  · change (levelOf level).bind _ = _
    rw [levelOf_none hlevel, Option.bind_none]
  · rw [lineRequestOf_three, Option.bind_eq_none_iff]
    exact fun _ _ => if_neg (by omega)

section
variable {s : State} {n : LineNo} {r : LineRequest}

/-- A request of the host on its own line is one of the line's owner. -/
theorem Line.request_host {l : Line} (h : l.owner = .host) (r : LineRequest) (t : Tick) : l.request .host r t = l.request l.owner r t := by
  rw [h]

/-- DRIVE_LINE by what the line answers to the request (R94). -/
theorem State.driveLine_notOwner (h : (s.line n).owner = .mark) : s.driveLine n r = s.refuse .notOwner := by
  rw [State.driveLine, Line.request_notOwner (by rw [h]; decide)]

theorem State.driveLine_taken {l : Line} (h : (s.line n).request .host r s.tick = .taken l) :
    s.driveLine n r = (s.setLine n l).answer (lineAfter l s.tick) := by
  rw [State.driveLine, h]

theorem State.driveLine_busy {l : Line} (h : (s.line n).request .host r s.tick = .busy l) :
    s.driveLine n r = (s.setLine n l).refuse .lineBusy := by
  rw [State.driveLine, h]

end

theorem driveLineAnswer_eq {n op level w0 w1 w2 w3 : Byte} {l : LineNo} {r : LineRequest} (hl : lineOf n = some l)
    (hr : lineRequestOf op level (le32 w0 w1 w2 w3) = some r) (u : State) :
    driveLineAnswer [n, op, level, w0, w1, w2, w3] u = u.driveLine l r := by
  rw [driveLineAnswer, hl, hr]

theorem driveLineAnswer_refuse {n op level w0 w1 w2 w3 : Byte}
    (h : lineOf n = none ∨ lineRequestOf op level (le32 w0 w1 w2 w3) = none) (u : State) :
    driveLineAnswer [n, op, level, w0, w1, w2, w3] u = u.refuse .badArgument := by
  rw [driveLineAnswer]
  split
  next hl hr => rcases h with h | h <;> simp_all
  next => rfl

theorem lineAfter_idle {l : Line} {v : Level} {t : Tick} (hlevel : l.level = v) (hpulse : l.pulse = none) :
    lineAfter l t = [BitVec.ofNat 8 (Level.code v), 0, 0, 0, 0] := by
  have hzero : put32 0 = [0, 0, 0, 0] := by decide
  rw [lineAfter, hpulse, hlevel]
  change put8 _ ++ put32 0 = _
  rw [hzero]
  rfl

/-- A pulse just started has its whole width left. -/
theorem lineAfter_started {l : Line} {v : Level} {w : Nat} {t : Tick} (hw : w ≤ 1000000) (hlevel : l.level = v)
    (hpulse : l.pulse = some { level := v, endTick := t + BitVec.ofNat 48 (10 * w) }) :
    lineAfter l t = BitVec.ofNat 8 (Level.code v) :: put32 w := by
  have hleft : (elapsed (t + BitVec.ofNat 48 (10 * w)) t + 9) / 10 = w := by
    have : elapsed (t + BitVec.ofNat 48 (10 * w)) t = 10 * w := by
      rw [elapsed]
      bv_omega
    omega
  rw [lineAfter, hpulse, hlevel]
  change put8 _ ++ put32 ((elapsed (t + BitVec.ofNat 48 (10 * w)) t + 9) / 10) = _
  rw [hleft]
  rfl

/-- What a DRIVE_LINE changes besides the line: nothing of the session (R94). -/
theorem driveLineAnswer_session (operands : List Byte) (u : State) :
    (driveLineAnswer operands u).state.cmi = u.cmi ∧ (driveLineAnswer operands u).state.tick = u.tick := by
  unfold driveLineAnswer
  split
  · split
    · unfold State.driveLine
      split <;> exact ⟨rfl, rfl⟩
    · exact ⟨rfl, rfl⟩
  · exact ⟨rfl, rfl⟩

/-! ### A DRIVE_LINE around a session loss by silence (R92) -/

theorem takeEach_pair {i j : Instr} {s t u : State} (hi : exec i s = .next t) (hj : exec j t = .next u) : takeEach [i, j] s = .next u := by
  rw [takeEach, hi]
  dsimp only
  rw [takeEach, hj]
  rfl

/-- A silence timer due in OPEN loses the session (R158). -/
theorem exec_silenceTimerExpiry_due {s : State} (ho : s.cmi.session = .opened) (ht : s.cmi.silenceTimer = some s.tick) :
    exec .silenceTimerExpiry s = .next (s.loseSession .linkSilent) := by
  change Host.Outcome.next _ = _
  rw [State.silenceExpiry, if_pos ⟨(due_iff _ _).mpr ht, ho⟩]

/-- Settles O43: the operands, the request on the line, and the loss of the session before and after it. -/
theorem driveLineActsOnHostLines : Obligations.DriveLineActsOnHostLines := by
  refine ⟨fun s e rest n op level w0 w1 w2 w3 w v h hp hw hv => ?_, fun s e rest operands h hp ht => ?_,
    fun s opener e rest ho ht hslot hq hsync hcommand => ?_⟩
  · have hexec := exec_answers_named h hp rfl rfl rfl
    refine ⟨fun hbad => ?_, fun l hl hok => ?_⟩
    · rw [hexec, driveLineAnswer_refuse (hbad.imp lineOf_none fun hreq => lineRequestOf_none (hw ▸ hreq))]
      rfl
    · have hdrive (r : LineRequest) (hr : lineRequestOf op level w = some r) :
          exec .driveLine s = .next (((s.withInbound rest).driveLine l r).reply e) := by
        rw [hexec, driveLineAnswer_eq (lineOf_eq hl) (hw ▸ hr)]
      refine ⟨fun hmark => ?_, fun hhost hop => ?_, fun hhost hop => ?_, fun hhost hop hfree => ?_, fun hhost hop hpulse hpolicy => ?_⟩
      · have hreq : ∃ r, lineRequestOf op level w = some r := by
          rcases hok with ⟨rfl, hlevel⟩ | rfl | ⟨rfl, hlevel, hlow, hhigh⟩
          · exact ⟨_, lineRequestOf_set hlevel _⟩
          · exact ⟨.toggle, rfl⟩
          · exact ⟨_, lineRequestOf_pulse hlevel hlow hhigh⟩
        obtain ⟨r, hr⟩ := hreq
        rw [hdrive r hr, State.driveLine_notOwner (s := s.withInbound rest) hmark]
        rfl
      · subst hop
        have hlevel : level.toNat ≤ 1 := by simpa using hok
        have htaken := (Line.request_host hhost _ _).trans (Line.request_set (s.line l) v s.tick)
        rw [hdrive _ (hv ▸ lineRequestOf_set hlevel w), State.driveLine_taken (s := s.withInbound rest) htaken,
          State.answer_reply, lineAfter_idle rfl rfl]
      · subst hop
        have htaken := (Line.request_host hhost _ _).trans (Line.request_toggle (s.line l) s.tick)
        rw [hdrive .toggle rfl, State.driveLine_taken (s := s.withInbound rest) htaken,
          State.answer_reply, lineAfter_idle rfl rfl]
      · subst hop
        have ⟨hlevel, hlow, hhigh⟩ : level.toNat ≤ 1 ∧ 1 ≤ w ∧ w ≤ 1000000 := by simpa using hok
        have htaken := ((Line.request_host hhost _ _).trans (Line.request_pulse (s.line l) v w s.tick)).trans
          (Line.pulseRequest_taken hfree v w s.tick)
        rw [hdrive _ (hv ▸ lineRequestOf_pulse hlevel hlow hhigh), State.driveLine_taken (s := s.withInbound rest) htaken,
          State.answer_reply]
        exact congrArg (fun data => Host.Outcome.next (State.answered _ e .ok data)) (lineAfter_started hhigh rfl rfl)
      · subst hop
        have ⟨hlevel, hlow, hhigh⟩ : level.toNat ≤ 1 ∧ 1 ≤ w ∧ w ≤ 1000000 := by simpa using hok
        have hbusy := ((Line.request_host hhost _ _).trans (Line.request_pulse (s.line l) v w s.tick)).trans
          (Line.pulseRequest_busy hpulse hpolicy v w s.tick)
        rw [hdrive _ (hv ▸ lineRequestOf_pulse hlevel hlow hhigh), State.driveLine_busy (s := s.withInbound rest) hbusy]
        rfl
  · have hexec := exec_answers_named h hp rfl rfl rfl
    obtain ⟨hcmi, htick⟩ := driveLineAnswer_session operands (s.withInbound rest)
    generalize driveLineAnswer operands (s.withInbound rest) = answer at hexec hcmi htick
    have ho : (answer.reply e).cmi.session = .opened := (congrArg CommandInterpreter.session hcmi).trans h.2.1
    have hdue : (answer.reply e).cmi.silenceTimer = some (answer.reply e).tick :=
      (congrArg CommandInterpreter.silenceTimer hcmi).trans (ht.trans (congrArg some htick.symm))
    refine ⟨_, takeEach_pair hexec (exec_silenceTimerExpiry_due ho hdue), ?_, ?_, fun l => ?_⟩
    · rw [State.loseSession_eq]
      rfl
    · rw [State.loseSession_eq]
    · rw [State.loseSession_line]
      exact ⟨rfl, rfl⟩
  · obtain ⟨-, -, -, -, -, hlrx, hltx, -⟩ := s.settled_frame.1
    have hlost := s.loseSession_eq .linkSilent
    have hinbound : (s.loseSession .linkSilent).lrx.inbound = opener :: e :: rest := by rw [hlost, ← hq, ← hlrx]
    have hempty : (s.loseSession .linkSilent).ltx.slot = none := by rw [hlost, ← hslot, ← hltx]
    refine ⟨_, takeEach_pair (exec_silenceTimerExpiry_due ho ht) (syncOpensSession _ opener (e :: rest) hinbound hsync hempty),
      ⟨⟨rfl, hcommand, hempty⟩, rfl, rfl⟩, ?_, fun l => ?_⟩
    · rw [hlost]
    · exact s.loseSession_line .linkSilent l

end Sys2Proof.Machine
end

section
/-! An edge code of CONFIG_STROBE that the model does not refuse (O44), and the commands that take and read captures (O45). -/

namespace Sys2Proof.Machine

/-! ### CONFIG_STROBE with an edge code above 3 -/

/-- The last branch of the model's `EdgeSelect.ofByte` stands in the namespace of `EdgeSelect`, where `none` is the selection of no edge: a code
above 3 is read as that selection, not refused. -/
theorem EdgeSelect.ofByte_outOfRange {b : Byte} (h : 3 < b.toNat) : EdgeSelect.ofByte b = some EdgeSelect.none := by
  revert b
  decide +kernel

/-- CONFIG_STROBE accepts an edge code above 3, as the selection of no edge. -/
theorem configStrobeAnswer_edges_outOfRange {n edges q0 q1 mask group : Byte} {k : StrobeNo} {g : Option GroupNo} (hn : n.toNat = k.val)
    (he : 3 < edges.toNat) (hq : le16 q0 q1 ≤ 1000) (hg : armGroupOf group = some g) (u : State) :
    configStrobeAnswer [n, edges, q0, q1, mask, group] u =
      (u.setStrobe k ((u.strobe k).configure { edges := .none, qual := le16 q0 q1, mask := mask, armGroup := g })).answer
        (putStrobeConfig (u.strobe k).config ++ putFlag (u.strobe k).record.isSome) := by
  rw [configStrobeAnswer, strobeOf_eq hn, EdgeSelect.ofByte_outOfRange he, hg]
  exact if_pos hq

/-- An open session with the CONFIG_STROBE of strobe 7 with edge code 4 waiting. -/
def edgeCodeWaiting : State :=
  { State.reset with
    cmi := { State.reset.cmi with session := .opened }
    ltx := { State.reset.ltx with slot := none }
    lrx := { State.reset.lrx with inbound := [{ kind := .command, seq := 9, payload := [0x40, 7, 4, 0, 0, 0, 0] }] } }

theorem edgeCodeWaiting_executes : edgeCodeWaiting.executes { kind := .command, seq := 9, payload := [0x40, 7, 4, 0, 0, 0, 0] } [] :=
  ⟨⟨rfl, rfl, rfl⟩, rfl, by decide +kernel⟩

/-- The status byte of the reply in the slot. -/
def State.repliedStatus (s : State) : Option Byte := s.ltx.slot.bind fun r => r.payload[1]?

theorem State.repliedStatus_answered (u : State) (e : Entry) (st : Status) (data : List Byte) :
    (u.answered e st data).repliedStatus = some (BitVec.ofNat 8 st.code) := rfl

/-- Refutes O44: CONFIG_STROBE with edge code 4 is answered OK, not BAD_ARGUMENT. -/
theorem not_configAndReadStrobes : ¬ Obligations.ConfigAndReadStrobes := by
  intro h
  have hrefused := ((h _ _ _ edgeCodeWaiting_executes).1 7 4 0 0 0 0 rfl).1 (.inr (.inl (by decide)))
  have haccepted := exec_answers_named edgeCodeWaiting_executes rfl rfl rfl rfl
  rw [configStrobeAnswer_edges_outOfRange (n := 7) (edges := 4) (q0 := 0) (q1 := 0) (group := 0) (k := 7) rfl (by decide) (by decide) rfl,
    State.answer_reply] at haccepted
  have hstatus := congrArg State.repliedStatus (Host.Outcome.next.inj (haccepted.symm.trans hrefused))
  rw [State.repliedStatus_answered, State.repliedStatus_answered] at hstatus
  exact absurd hstatus (by decide)

/-! ### CAPTURE_NOW and READ_CAPTURES -/

/-- CAPTURE_NOW with room in the queue: the record stored, and the notice of the first one (R108). -/
theorem captureNowAnswer_room {s : State} (h : s.cpq.records.length < 128) (mask : Byte) :
    captureNowAnswer [mask] s =
      ({ s with
          cpq := { s.cpq with
            records := s.cpq.records ++
              [({ source := .host, gap := s.cpq.gapPending, tick := s.tick, mask := mask, positions := s.positions mask } : Capture)]
            gapPending := false, waitingNotice := true }
          rpq := if s.cpq.waitingNotice then s.rpq
            else s.rpq.take (.capturesWaiting (s.cpq.records.length + 1) s.tick) s.tick } : State).answer
        (putTick s.tick ++ put8 (s.cpq.records.length + 1)) := by
  refine (if_pos (decide_eq_true h)).trans ?_
  rw [State.storeCapture, State.reportIf]
  cases s.cpq.waitingNotice <;> rfl

theorem captureNowAnswer_full {s : State} (h : 128 ≤ s.cpq.records.length) (mask : Byte) :
    captureNowAnswer [mask] s = s.refuse .full := if_neg fun hroom => absurd (of_decide_eq_true hroom) (Nat.not_lt.mpr h)

/-- READ_CAPTURES takes the oldest records, as many as asked for and as fit the room (R110). -/
theorem takenCaptures_eq_take (n room : Nat) (records : List Capture) :
    takenCaptures n room records = records.take (takenCaptures n room records).length := by
  fun_induction takenCaptures n room records with
  | case1 => rfl
  | case2 => rfl
  | case3 n room c rest hc ih => rw [List.length_cons, List.take_succ_cons, ← ih]
  | case4 => rfl

theorem takenCaptures_length_le (n room : Nat) (records : List Capture) : (takenCaptures n room records).length ≤ n := by
  fun_induction takenCaptures n room records with
  | case1 => exact Nat.le_refl 0
  | case2 => exact Nat.zero_le _
  | case3 n room c rest hc ih => exact Nat.succ_le_succ ih
  | case4 => exact Nat.zero_le _

theorem takenCaptures_length_le_records (n room : Nat) (records : List Capture) :
    (takenCaptures n room records).length ≤ records.length := by
  have h := congrArg List.length (takenCaptures_eq_take n room records)
  rw [List.length_take] at h
  omega

theorem takenCaptures_size (n room : Nat) (records : List Capture) : ((takenCaptures n room records).map Capture.size).sum ≤ room := by
  fun_induction takenCaptures n room records with
  | case1 => exact Nat.zero_le _
  | case2 => exact Nat.zero_le _
  | case3 n room c rest hc ih =>
    rw [List.map_cons, List.sum_cons]
    omega
  | case4 => exact Nat.zero_le _

/-- READ_CAPTURES stops at the number asked for, at the end of the queue, or at a record that no longer fits. -/
theorem takenCaptures_maximal (n room : Nat) (records : List Capture) :
    (takenCaptures n room records).length = n ∨ (takenCaptures n room records).length = records.length ∨
      room < ((records.take ((takenCaptures n room records).length + 1)).map Capture.size).sum := by
  fun_induction takenCaptures n room records with
  | case1 => exact .inl rfl
  | case2 => exact .inr (.inl rfl)
  | case3 n room c rest hc ih =>
    rw [List.length_cons, List.length_cons, List.take_succ_cons, List.map_cons, List.sum_cons]
    omega
  | case4 n room c rest hc =>
    refine .inr (.inr ?_)
    rw [List.length_nil, List.take_succ_cons, List.map_cons, List.sum_cons]
    omega

theorem CaptureQueue.removed_eq (q : CaptureQueue) (k : Nat) :
    q.removed k =
      { q with
        records := q.records.drop k, overrun := false
        waitingNotice := q.waitingNotice && decide (k < q.records.length) } := by
  have hempty : (!(q.records.drop k).isEmpty) = decide (k < q.records.length) := by
    rw [Bool.eq_iff_iff, Bool.not_eq_true', List.isEmpty_eq_false_iff, decide_eq_true_iff, ne_eq, List.drop_eq_nil_iff, Nat.not_le]
  rw [CaptureQueue.removed, hempty]

theorem readCapturesAnswer_eq {n : Byte} (h : 1 ≤ n.toNat ∧ n.toNat ≤ 32) (s : State) {k : Nat}
    (hk : k = (takenCaptures n.toNat 235 s.cpq.records).length) :
    readCapturesAnswer [n] s =
      ({ s with cpq := s.cpq.removed k } : State).answer
        (put8 k ++ put8 (s.cpq.records.length - k) ++ [if s.cpq.overrun then 1 else 0] ++ (s.cpq.records.take k).flatMap putCapture) := by
  refine (if_pos h).trans ?_
  have htake := takenCaptures_eq_take n.toNat 235 s.cpq.records
  rw [← hk] at htake
  change ({ s with cpq := s.cpq.removed (takenCaptures n.toNat 235 s.cpq.records).length } : State).answer
    (put8 (takenCaptures n.toNat 235 s.cpq.records).length
      ++ put8 (s.cpq.records.drop (takenCaptures n.toNat 235 s.cpq.records).length).length ++ putFlag s.cpq.overrun
      ++ (takenCaptures n.toNat 235 s.cpq.records).flatMap putCapture) = _
  rw [← hk, htake, List.length_drop]
  rfl

/-- Settles O45: CAPTURE_NOW by the room in the queue, READ_CAPTURES by the records taken. -/
theorem captureNowAndReadCaptures : Obligations.CaptureNowAndReadCaptures := by
  refine ⟨fun s e rest mask h hp => ?_, fun s e rest n h hp => ?_⟩
  · have hexec := exec_answers_named h hp rfl rfl rfl
    refine ⟨fun hfull => ?_, fun hroom => ?_⟩
    · rw [hexec, captureNowAnswer_full (s := s.withInbound rest) hfull]
      rfl
    · rw [hexec, captureNowAnswer_room (s := s.withInbound rest) hroom]
      rfl
  · have hexec := exec_answers_named h hp rfl rfl rfl
    refine ⟨fun hbad => ?_, fun hlow hhigh => ?_⟩
    · rw [hexec, readCapturesAnswer, if_neg]
      · rfl
      · rintro ⟨hlow, hhigh⟩
        rcases hbad with rfl | hbad
        · exact absurd hlow (by decide)
        · omega
    · obtain ⟨k, hk⟩ : ∃ k, k = (takenCaptures n.toNat 235 s.cpq.records).length := ⟨_, rfl⟩
      have hle : k ≤ s.cpq.records.length := hk ▸ takenCaptures_length_le_records _ _ _
      have hsize := takenCaptures_size n.toNat 235 s.cpq.records
      rw [takenCaptures_eq_take, ← hk] at hsize
      refine ⟨k, hk ▸ takenCaptures_length_le _ _ _, hle, hsize, hk ▸ takenCaptures_maximal _ _ _, ?_⟩
      rw [hexec, readCapturesAnswer_eq ⟨hlow, hhigh⟩ (s.withInbound rest) hk]
      exact congrArg (fun q => Host.Outcome.next (State.answered { s.withInbound rest with cpq := q } e .ok _))
        (s.cpq.removed_eq k)

end Sys2Proof.Machine
end

section
/-! The fields and the records as bytes (O47), and a mark record copied back (O48). -/

namespace Sys2Proof.Machine

/-! ### Fields (R164) -/

/-- Byte `k / 8` of a word is the word divided by 2 to the `k`, modulo 256. -/
theorem toNat_byteAt {n : Nat} (w : BitVec n) (k : Nat) : ((w >>> k).setWidth 8 : Byte).toNat = w.toNat / 2 ^ k % 256 := by
  rw [BitVec.toNat_setWidth, BitVec.toNat_ushiftRight, Nat.shiftRight_eq_div_pow]

theorem toNat_lowByte {n : Nat} (w : BitVec n) : (w.setWidth 8 : Byte).toNat = w.toNat % 256 := BitVec.toNat_setWidth 8 w

theorem put16_layout {n : Nat} (h : n < 65536) :
    ∃ b0 b1 : Byte, put16 n = [b0, b1] ∧ b0.toNat = n % 256 ∧ b1.toNat = n / 256 ∧ le16 b0 b1 = n := by
  refine ⟨_, _, rfl, ?_, ?_, le16_put16 h⟩
  · rw [toNat_lowByte, BitVec.toNat_ofNat]
    omega
  · rw [toNat_byteAt, BitVec.toNat_ofNat]
    omega

/-- The four bytes of a word. -/
theorem putBits32_layout (w : BitVec 32) :
    (w.setWidth 8 : Byte).toNat = w.toNat % 256 ∧ ((w >>> 8).setWidth 8 : Byte).toNat = w.toNat / 256 % 256 ∧
      ((w >>> 16).setWidth 8 : Byte).toNat = w.toNat / 65536 % 256 ∧ ((w >>> 24).setWidth 8 : Byte).toNat = w.toNat / 16777216 := by
  have hlt := w.isLt
  refine ⟨toNat_lowByte w, toNat_byteAt w 8, toNat_byteAt w 16, ?_⟩
  rw [toNat_byteAt]
  omega

theorem put32_layout {n : Nat} (h : n < 4294967296) :
    ∃ b0 b1 b2 b3 : Byte, put32 n = [b0, b1, b2, b3] ∧ b0.toNat = n % 256 ∧ b1.toNat = n / 256 % 256 ∧ b2.toNat = n / 65536 % 256 ∧
      b3.toNat = n / 16777216 ∧ le32 b0 b1 b2 b3 = n := by
  obtain ⟨h0, h1, h2, h3⟩ := putBits32_layout (BitVec.ofNat 32 n)
  rw [BitVec.toNat_ofNat, Nat.mod_eq_of_lt h] at h0 h1 h2 h3
  exact ⟨_, _, _, _, rfl, h0, h1, h2, h3, le32_put32 h⟩

theorem putPos_layout {p : Int} {n : Nat} (hlow : -2147483648 ≤ p) (hhigh : p ≤ 2147483647)
    (hn : (n : Int) = (if p < 0 then p + 4294967296 else p)) :
    ∃ b0 b1 b2 b3 : Byte, putPos p = [b0, b1, b2, b3] ∧ b0.toNat = n % 256 ∧ b1.toNat = n / 256 % 256 ∧ b2.toNat = n / 65536 % 256 ∧
      b3.toNat = n / 16777216 ∧ leInt b0 b1 b2 b3 = p := by
  have hword : (BitVec.ofInt 32 p).toNat = n := by
    rw [BitVec.toNat_ofInt]
    split at hn <;> omega
  obtain ⟨h0, h1, h2, h3⟩ := putBits32_layout (BitVec.ofInt 32 p)
  rw [hword] at h0 h1 h2 h3
  exact ⟨_, _, _, _, rfl, h0, h1, h2, h3, leInt_putPos hlow hhigh⟩

theorem putTick_layout (t : Tick) :
    ∃ b0 b1 b2 b3 b4 b5 : Byte, putTick t = [b0, b1, b2, b3, b4, b5] ∧ b0.toNat = t.toNat % 256 ∧ b1.toNat = t.toNat / 256 % 256 ∧
      b2.toNat = t.toNat / 65536 % 256 ∧ b3.toNat = t.toNat / 16777216 % 256 ∧ b4.toNat = t.toNat / 4294967296 % 256 ∧
      b5.toNat = t.toNat / 1099511627776 := by
  refine ⟨_, _, _, _, _, _, rfl, toNat_lowByte t, toNat_byteAt t 8, toNat_byteAt t 16, toNat_byteAt t 24, toNat_byteAt t 32, ?_⟩
  have hlt := t.isLt
  rw [toNat_byteAt]
  omega

/-! ### Records -/

/-- Four flags in one byte (Table 11-5, Table 11-6). -/
theorem fourFlags (a b c d : Bool) : ∃ flags : Byte,
    flags = BitVec.ofNat 8 ((if a then 1 else 0) + (if b then 2 else 0) + (if c then 4 else 0) + (if d then 8 else 0)) ∧
      flags.toNat < 16 ∧ flags.getLsbD 0 = a ∧ flags.getLsbD 1 = b ∧ flags.getLsbD 2 = c ∧ flags.getLsbD 3 = d := by
  refine ⟨_, rfl, ?_⟩
  revert a b c d
  decide

theorem putTickOpt_eq (t : Option Tick) : putTickOpt t = putTick (t.getD 0) := by
  cases t <;> rfl

theorem putAxis_layout (u : AxisUnit) : ∃ flags : Byte, flags.toNat < 16 ∧ flags.getLsbD 0 = u.phaseFlag ∧ flags.getLsbD 1 = u.limitFlag ∧
    flags.getLsbD 2 = u.interval.isSome ∧ flags.getLsbD 3 = u.latch.isSome ∧
    putAxis u = putPos u.pos ++ [(match u.lastDir with | none => 0 | some .up => 1 | some .down => 2 : Byte), flags]
      ++ put32 (u.interval.getD 0) ++ put16 u.phaseErrors ++ [(match u.home with | .notHomed => 0 | .homeArmed => 1 | .homed => 2 : Byte)]
      ++ putPos ((u.latch.map (·.pos)).getD 0) ++ putTick ((u.latch.map (·.tick)).getD 0) := by
  obtain ⟨flags, hflags, hbits⟩ := fourFlags u.phaseFlag u.limitFlag u.interval.isSome u.latch.isSome
  obtain ⟨hlt, h0, h1, h2, h3⟩ := hbits
  have hdir : put8 (lastDirCode u.lastDir) = [(match u.lastDir with | none => 0 | some .up => 1 | some .down => 2 : Byte)] := by
    rcases u.lastDir with _ | _ | _ <;> rfl
  have hhome : put8 u.home.code = [(match u.home with | .notHomed => 0 | .homeArmed => 1 | .homed => 2 : Byte)] := by
    cases u.home <;> rfl
  refine ⟨flags, hlt, h0, h1, h2, h3, ?_⟩
  rw [putAxis, axisFlags, hdir, hhome, putTickOpt_eq, put8_eq, ← hflags]
  simp only [List.append_assoc, List.cons_append, List.nil_append]

theorem put32_zero : put32 0 = [0, 0, 0, 0] := by decide

theorem putAction_layout (n : LineNo) (v : Level) (w : Nat) (mask : BitVec 8) (a : Axis) (x : Int) (g : GroupNo) :
    putAction (.pulse n v w) = [1, BitVec.ofNat 8 n.val, BitVec.ofNat 8 (Level.code v)] ++ put32 w ∧
    putAction (.set n v) = [2, BitVec.ofNat 8 n.val, BitVec.ofNat 8 (Level.code v), 0, 0, 0, 0] ∧
    putAction (.toggle n) = [3, BitVec.ofNat 8 n.val, 0, 0, 0, 0, 0] ∧ putAction (.snapshot mask) = [4, mask, 0, 0, 0, 0, 0] ∧
    putAction (.preset a x) = [5, BitVec.ofNat 8 a.val, 0] ++ putPos x ∧
    putAction (.armGroup g) = [6, BitVec.ofNat 8 g.val, 0, 0, 0, 0, 0] ∧
    putAction (.disarmGroup g) = [7, BitVec.ofNat 8 g.val, 0, 0, 0, 0, 0] := by
  simp only [putAction, put32_zero]
  exact ⟨rfl, rfl, rfl, rfl, rfl, rfl, rfl⟩

theorem putMark_layout (m : Mark) (id : MarkId) (kind : Byte) (band step : Nat) (base remaining : Option Nat)
    (h : m.kind = .once ∧ kind = 1 ∧ band = 0 ∧ step = 0 ∧ base = none ∧ remaining = none ∨
      m.kind = .repeating band ∧ kind = 2 ∧ step = 0 ∧ base = none ∧ remaining = none ∨
      m.kind = .pitch step base remaining ∧ kind = 3 ∧ band = 0) :
    ∃ presence : Byte, presence.toNat < 16 ∧ presence.getLsbD 0 = true ∧ presence.getLsbD 1 = base.isSome ∧
      presence.getLsbD 2 = remaining.isSome ∧ presence.getLsbD 3 = m.lastFire.isSome ∧
      putMark id (some m) = [BitVec.ofNat 8 id.val, BitVec.ofNat 8 m.state.code, presence, BitVec.ofNat 8 m.axis.val, kind,
          BitVec.ofNat 8 m.qual.code] ++ putPos m.base ++ putPos m.target
        ++ [BitVec.ofNat 8 m.group.val, if m.report then 1 else 0] ++ put16 band ++ put32 step ++ put16 (base.getD 0)
        ++ put16 (remaining.getD 0) ++ put16 m.fires ++ putTick (m.lastFire.getD 0) ++ [BitVec.ofNat 8 m.actions.length]
        ++ m.actions.flatMap putAction := by
  have hfields : m.kind.bandField = band ∧ m.kind.stepField = step ∧ m.kind.baseCount = base ∧ m.kind.remaining = remaining ∧
      BitVec.ofNat 8 m.kind.code = kind := by
    rcases h with ⟨hk, rfl, rfl, rfl, rfl, rfl⟩ | ⟨hk, rfl, rfl, rfl, rfl⟩ | ⟨hk, rfl, rfl⟩ <;> rw [hk] <;> exact ⟨rfl, rfl, rfl, rfl, rfl⟩
  obtain ⟨hband, hstep, hbase, hremaining, hkind⟩ := hfields
  obtain ⟨presence, hpresence, hlt, h0, h1, h2, h3⟩ := fourFlags true base.isSome remaining.isSome m.lastFire.isSome
  refine ⟨presence, hlt, h0, h1, h2, h3, ?_⟩
  have hbyte : BitVec.ofNat 8 m.presence = presence := by
    rw [Mark.presence, hbase, hremaining, hpresence]
    rfl
  simp only [putMark, put8_eq, hbyte, hkind, hband, hstep, hbase, hremaining, putTickOpt_eq, putFlag, List.append_assoc, List.cons_append,
    List.nil_append]

/-- The flags of a capture record are its gap bit, its strobe bit and its falling bit (Table 11-7). -/
theorem flags_eq_of_bits {flags : Byte} (h : flags.toNat < 8) :
    flags = BitVec.ofNat 8 ((if flags.getLsbD 0 then 1 else 0) + (if flags.getLsbD 1 then 2 else 0) + (if flags.getLsbD 2 then 4 else 0)) := by
  revert flags
  decide +kernel

theorem putCapture_layout (c : Capture) (kind id flags : Byte)
    (h : (∃ n e, c.source = .strobe n e ∧ kind = 1 ∧ id = BitVec.ofNat 8 n.val ∧ flags.getLsbD 1 = true ∧
        flags.getLsbD 2 = decide (e = .falling)) ∨
      (∃ m, c.source = .mark m ∧ kind = 2 ∧ id = BitVec.ofNat 8 m.val ∧ flags.getLsbD 1 = false ∧ flags.getLsbD 2 = false) ∨
      (c.source = .host ∧ kind = 3 ∧ id = 0 ∧ flags.getLsbD 1 = false ∧ flags.getLsbD 2 = false))
    (hlt : flags.toNat < 8) (hgap : flags.getLsbD 0 = c.gap) :
    putCapture c = [kind, id, flags] ++ putTick c.tick ++ [c.mask] ++ c.positions.flatMap putPos := by
  have hflags := flags_eq_of_bits hlt
  have hfields : BitVec.ofNat 8 c.source.code = kind ∧ BitVec.ofNat 8 c.source.id = id ∧ BitVec.ofNat 8 (captureFlags c) = flags := by
    rw [hgap] at hflags
    rw [captureFlags]
    rcases h with ⟨n, e, hs, rfl, rfl, h1, h2⟩ | ⟨m, hs, rfl, rfl, h1, h2⟩ | ⟨hs, rfl, rfl, h1, h2⟩ <;> rw [h1, h2] at hflags <;>
      rw [hs, hflags]
    · cases e <;> exact ⟨rfl, rfl, rfl⟩
    · exact ⟨rfl, rfl, rfl⟩
    · exact ⟨rfl, rfl, rfl⟩
  obtain ⟨hkind, hid, hbyte⟩ := hfields
  simp only [putCapture, put8_eq, hkind, hid, hbyte, List.cons_append, List.nil_append]

theorem reportPayload_layout (bytes : Report → List Byte) (send : SendState) (born : Tick)
    (h : ∀ r, bytes r = reportPayload { body := r, send := send, created := born }) (r : Report) :
    bytes r = BitVec.ofNat 8 r.kind.code :: (putTick born ++ putReport r) := by
  rw [h]
  rfl

theorem bits16_split (w : BitVec 16) : ((w >>> 8).setWidth 8 ++ w.setWidth 8 : BitVec 16) = w :=
  BitVec.eq_of_toNat_eq (le16_putBits16 w)

theorem putStrobeConfig_layout (c : StrobeConfig) : putStrobeConfig c = [BitVec.ofNat 8 c.edges.code] ++ put16 c.qual
    ++ [c.mask, match c.armGroup with | none => 0xFF | some g => BitVec.ofNat 8 g.val] := by
  have hgroup : put8 (armGroupCode c.armGroup) = [(match c.armGroup with | none => 0xFF | some g => BitVec.ofNat 8 g.val : Byte)] := by
    cases c.armGroup <;> rfl
  rw [putStrobeConfig, hgroup, List.append_assoc]
  rfl

/-- Settles O47: the layouts one by one; the codes of the enumerations are finite tables. -/
theorem fieldsAndRecordsAreLaidOut : Obligations.FieldsAndRecordsAreLaidOut := by
  refine ⟨fun n => put16_layout, fun n => put32_layout, fun p n => putPos_layout, putTick_layout, putAxis_layout, putAction_layout, fun id => rfl,
    putMark_layout, putCapture_layout, ?_, putStrobeConfig_layout, fun code operands data st => rfl, by decide, by decide +kernel⟩
  intro send born t m a p q d k n b left cause fault home src st h kinds bytes hbytes
  have hrow := reportPayload_layout bytes send born hbytes
  simp only [hrow, putReport, put8_eq, putFlag, List.append_assoc, List.cons_append, List.nil_append]
  refine ⟨rfl, rfl, rfl, rfl, rfl, rfl, ?_, rfl, kinds.setWidth 8, (kinds >>> 8).setWidth 8, bits16_split kinds, rfl⟩
  cases src <;> rfl

/-! ### A mark record copied back (R166, R39) -/

theorem toNat_ofNat8 {n : Nat} (h : n < 256) : (BitVec.ofNat 8 n).toNat = n := by
  rw [BitVec.toNat_ofNat]
  omega

theorem toNat_id16 (n : Fin 16) : (BitVec.ofNat 8 n.val).toNat = n.val := toNat_ofNat8 (by omega)

theorem toNat_id8 (n : Fin 8) : (BitVec.ofNat 8 n.val).toNat = n.val := toNat_ofNat8 (by omega)

theorem toNat_levelCode (v : Level) : (BitVec.ofNat 8 (Level.code v)).toNat = Level.code v := by
  cases v <;> rfl

/-- The values that an action entry of a record can hold: a pulse width in range, a snapshot mask that is not empty, a 32-bit position. -/
def Action.sendable (x : Action) : Prop :=
  match x with
  | .pulse _ _ w => 1 ≤ w ∧ w ≤ 1000000
  | .snapshot mask => mask ≠ 0
  | .preset _ v => -2147483648 ≤ v ∧ v ≤ 2147483647
  | .set _ _ | .toggle _ | .armGroup _ | .disarmGroup _ => True

/-- An action entry sent is read back. -/
theorem actionsOf_putAction {x : Action} (h : x.sendable) (rest : List Byte) :
    actionsOf (putAction x ++ rest) = (actionsOf rest).map (x :: ·) := by
  have hread {k o1 o2 v0 v1 v2 v3 : Byte} (hx : x.written k o1 o2 (le32 v0 v1 v2 v3) (leInt v0 v1 v2 v3))
      (hok : entryAccepted k o1 o2 (le32 v0 v1 v2 v3)) :
      actionsOf ([k, o1, o2, v0, v1, v2, v3] ++ rest) = (actionsOf rest).map (x :: ·) := by
    change actionsOf (k :: o1 :: o2 :: v0 :: v1 :: v2 :: v3 :: rest) = _
    rw [actionsOf_cons, actionOf_eq_some.mpr ⟨hx, hok⟩, Option.bind_some]
  cases x with
  | pulse n v w =>
    obtain ⟨hlow, hhigh⟩ := h
    have hw := le32_put32 (n := w) (by omega)
    exact hread ⟨rfl, toNat_id16 n, toNat_levelCode v, hw⟩
      (.inl ⟨rfl, (toNat_id16 n).trans_lt n.isLt, (toNat_levelCode v).trans_le (Level.code_le v), by rw [hw]; exact ⟨hlow, hhigh⟩⟩)
  | set n v =>
    exact hread ⟨rfl, toNat_id16 n, toNat_levelCode v⟩
      (.inr (.inl ⟨rfl, (toNat_id16 n).trans_lt n.isLt, (toNat_levelCode v).trans_le (Level.code_le v)⟩))
  | toggle n => exact hread ⟨rfl, toNat_id16 n⟩ (.inr (.inr (.inl ⟨rfl, (toNat_id16 n).trans_lt n.isLt⟩)))
  | snapshot mask => exact hread ⟨rfl, rfl⟩ (.inr (.inr (.inr (.inl ⟨rfl, h⟩))))
  | preset a v =>
    exact hread ⟨rfl, toNat_id8 a, leInt_putPos h.1 h.2⟩ (.inr (.inr (.inr (.inr (.inl ⟨rfl, (toNat_id8 a).trans_lt a.isLt⟩)))))
  | armGroup g =>
    exact hread ⟨rfl, toNat_id16 g⟩ (.inr (.inr (.inr (.inr (.inr ⟨.inl rfl, (toNat_id16 g).trans_lt g.isLt⟩)))))
  | disarmGroup g =>
    exact hread ⟨rfl, toNat_id16 g⟩ (.inr (.inr (.inr (.inr (.inr ⟨.inr rfl, (toNat_id16 g).trans_lt g.isLt⟩)))))

theorem actionsOf_flatMap_putAction {actions : List Action} (h : ∀ x ∈ actions, x.sendable) :
    actionsOf (actions.flatMap putAction) = some actions := by
  induction actions with
  | nil => rfl
  | cons x rest ih =>
    rw [List.flatMap_cons, actionsOf_putAction (h x List.mem_cons_self), ih fun y hy => h y (List.mem_cons_of_mem x hy)]
    rfl

/-- The kind that DEFINE_MARK gives to the fields of a record: the kind with its count at the base count. -/
def MarkKind.renewed : MarkKind → MarkKind
  | .pitch st base _ => .pitch st base base
  | k => k

/-- The values that the kind of a record can hold, by its qualifier and its axis. -/
def MarkKind.storable (k : MarkKind) (q : Qualifier) (c : AxisConfig) : Prop :=
  match k with
  | .once => True
  | .repeating b => 1 ≤ b ∧ b ≤ 65535
  | .pitch st base _ => q ≠ .either ∧ 1 ≤ st ∧ st ≤ 16777215 ∧ (c.kind = .rotary → st + 1 ≤ c.modulus) ∧
    (∀ n ∈ base, 1 ≤ n ∧ n ≤ 65535)

theorem MarkFields.markKind_of_record {f : MarkFields} {k : MarkKind} {c : AxisConfig} {q : Qualifier} (hkind : f.kind = BitVec.ofNat 8 k.code)
    (hband : f.band = k.bandField) (hstep : f.step = k.stepField) (hcount : f.count = k.baseCount.getD 0)
    (h : k.storable q c) :
    f.markKind c q = some k.renewed := by
  cases k with
  | once => exact MarkFields.markKind_once hkind c q
  | repeating b =>
    rw [MarkFields.markKind_repeating hkind, hband]
    exact if_pos h
  | pitch st base remaining =>
    obtain ⟨hq, hlow, hhigh, hrotary, hbase⟩ := h
    rw [MarkFields.markKind_pitch hkind, hstep, hcount]
    cases base with
    | none => exact if_pos ⟨hq, hlow, (AxisConfig.le_stepTop hlow).mpr ⟨fun _ => hhigh, hrotary⟩, Nat.zero_le _⟩
    | some n =>
      obtain ⟨hn, hn'⟩ := hbase n rfl
      refine (if_pos ⟨hq, hlow, (AxisConfig.le_stepTop hlow).mpr ⟨fun _ => hhigh, hrotary⟩, hn'⟩).trans ?_
      change some (MarkKind.pitch st (if n = 0 then none else some n) (if n = 0 then none else some n)) = _
      rw [if_neg (by omega)]
      rfl

/-- Settles O48: each field sent is read back, and the fields make the record. -/
theorem markRecordCanBeCopiedBack : Obligations.MarkRecordCanBeCopiedBack := by
  intro m config f hin hlength hactions hkind hf
  have hsendable : ∀ x ∈ m.actions, x.sendable := by
    intro x hx
    have := hactions x hx
    cases x <;> exact this
  have hread := actionsOf_flatMap_putAction hsendable
  have hstorable : m.kind.storable m.qual (config m.axis) := by
    cases hk : m.kind <;> rw [hk] at hkind <;> exact hkind
  have hrenewed : f.markKind (config m.axis) m.qual = some m.kind.renewed := by
    rw [hf]
    exact MarkFields.markKind_of_record rfl rfl rfl rfl hstorable
  subst hf
  have hqual : (BitVec.ofNat 8 m.qual.code).toNat = m.qual.code := by cases m.qual <;> rfl
  have hreport : flagOf (if m.report then 1 else 0) = some m.report := by cases m.report <;> rfl
  refine MarkFields.mark_eq_some.mpr ⟨m.axis, m.qual, m.kind.renewed, m.group, m.report, m.actions, axisOf_eq (toNat_id8 _),
    (Qualifier.ofByte_some_iff _ _).mpr hqual, hrenewed, groupOf_eq (toNat_id16 _), hreport, hlength, hread, hin, ?_⟩
  cases hk : m.kind <;> rfl

end Sys2Proof.Machine
end

section
/-! The Link Receiver: single characters and timers (O50). -/

namespace Sys2Proof.Machine

/-! ### One character, by the state of the receiver (Table 9-1) -/

section
variable {r : LinkReceiver} {value : Byte} {mark : Bool} {t : Tick}

theorem LinkReceiver.frame_hunt (h : r.state = .hunt) :
    r.frame value mark t = if value = 0xC3 ∧ mark = false then (r.stored .header .empty t, none) else (r, none) := by
  rw [LinkReceiver.frame, h]
  rfl

theorem LinkReceiver.frame_header (h : r.state = .header) : r.frame value mark t = (r.takeHeader value mark t, none) := by
  rw [LinkReceiver.frame, h]

theorem LinkReceiver.frame_kind (h : r.state = .header) (hc : r.buffer.headerCount = 0) :
    r.frame value mark t = (r.stored r.state { r.buffer.enter value mark with kind := value, headerCount := 1 } t, none) := by
  rw [LinkReceiver.frame_header h, LinkReceiver.takeHeader, hc, h]
  rfl

theorem LinkReceiver.frame_seq (h : r.state = .header) (hc : r.buffer.headerCount = 1) :
    r.frame value mark t = (r.stored r.state { r.buffer.enter value mark with seq := value, headerCount := 2 } t, none) := by
  rw [LinkReceiver.frame_header h, LinkReceiver.takeHeader, hc, h]
  rfl

theorem LinkReceiver.frame_length (h : r.state = .header) (hc : r.buffer.headerCount = 2) (hv : value.toNat ≤ 240) :
    r.frame value mark t =
      (r.stored (if value = 0 then .check else .payload) { r.buffer.enter value mark with length := value, headerCount := 3 } t, none) := by
  rw [LinkReceiver.frame_header h, LinkReceiver.takeHeader, hc]
  exact congrArg (·, none) (if_neg (Nat.not_lt.mpr hv))

theorem LinkReceiver.frame_tooLong (h : r.state = .header) (hc : r.buffer.headerCount = 2) (hv : 240 < value.toNat) :
    r.frame value mark t = (r.discard .length, none) := by
  rw [LinkReceiver.frame_header h, LinkReceiver.takeHeader, hc]
  exact congrArg (·, none) (if_pos hv)

theorem LinkReceiver.frame_payload (h : r.state = .payload) :
    r.frame value mark t =
      (r.stored (if r.buffer.payload.length + 1 < r.buffer.length.toNat then .payload else .check)
        { r.buffer.enter value mark with payload := r.buffer.payload ++ [value] } t, none) := by
  have hlength : (r.buffer.payload ++ [value]).length = r.buffer.payload.length + 1 := List.length_append
  rw [LinkReceiver.frame, h, ← hlength]
  rfl

theorem LinkReceiver.frame_crcLow (h : r.state = .check) (hc : r.buffer.crcCount = 0) :
    r.frame value mark t =
      (r.stored r.state { r.buffer with mark := r.buffer.mark || mark, crcCount := 1, received := value.setWidth 16 } t, none) := by
  rw [LinkReceiver.frame, h]
  dsimp only
  rw [LinkReceiver.takeCheck, hc]
  rfl

theorem LinkReceiver.frame_crcHigh (h : r.state = .check) (hc : r.buffer.crcCount = 1) :
    r.frame value mark t =
      r.complete { r.buffer with
        mark := r.buffer.mark || mark, crcCount := 2, received := (value ++ r.buffer.received.setWidth 8 : BitVec 16) } := by
  rw [LinkReceiver.frame, h]
  dsimp only
  rw [LinkReceiver.takeCheck, hc]
  rfl

end

/-! ### A complete frame (R143, R144) -/

section
variable {r : LinkReceiver} {b : Assembly}

theorem LinkReceiver.complete_framing (h : b.mark = true) : r.complete b = (r.discard .framing, none) := by
  rw [LinkReceiver.complete, if_pos h]

theorem LinkReceiver.complete_crc (hm : b.mark = false) (h : b.received ≠ b.running) : r.complete b = (r.discard .crc, none) := by
  rw [LinkReceiver.complete, if_neg (by rw [hm]; decide), if_pos h]

/-- The entry kind of a frame kind that the host may send (R144). -/
def queuedAs (kind : Byte) (k : EntryKind) : Prop := kind = 0x01 ∧ k = .command ∨ kind = 0x03 ∧ k = .sync

theorem LinkReceiver.complete_valid (hm : b.mark = false) (h : b.received = b.running) :
    r.complete b =
      if b.kind = ackCode then (r.toHunt, some (.ack b.seq))
      else if b.kind = commandCode then r.enqueue { kind := .command, seq := b.seq, payload := b.payload }
      else if b.kind = syncCode then r.enqueue { kind := .sync, seq := b.seq, payload := b.payload }
      else (r.discard .kind, none) := by
  rw [LinkReceiver.complete, if_neg (by rw [hm]; decide), if_neg (not_not.mpr h)]

theorem LinkReceiver.complete_ack (hm : b.mark = false) (h : b.received = b.running) (hk : b.kind = 0x02) :
    r.complete b = (r.toHunt, some (.ack b.seq)) := by
  rw [LinkReceiver.complete_valid hm h]
  exact if_pos hk

theorem LinkReceiver.complete_queued (hm : b.mark = false) (h : b.received = b.running) {k : EntryKind} (hk : queuedAs b.kind k) :
    r.complete b = r.enqueue { kind := k, seq := b.seq, payload := b.payload } := by
  rw [LinkReceiver.complete_valid hm h]
  rcases hk with ⟨hkind, rfl⟩ | ⟨hkind, rfl⟩ <;> rw [hkind] <;> rfl

theorem LinkReceiver.complete_kind (hm : b.mark = false) (h : b.received = b.running) (h1 : b.kind ≠ 0x01) (h2 : b.kind ≠ 0x02)
    (h3 : b.kind ≠ 0x03) : r.complete b = (r.discard .kind, none) := by
  rw [LinkReceiver.complete_valid hm h]
  exact (if_neg h2).trans ((if_neg h1).trans (if_neg h3))

theorem LinkReceiver.enqueue_room (h : r.inbound.length < 4) (e : Entry) :
    r.enqueue e = ({ r.toHunt with inbound := r.inbound ++ [e] }, some .queued) := if_pos h

theorem LinkReceiver.enqueue_full (h : 4 ≤ r.inbound.length) (e : Entry) : r.enqueue e = (r.discard .overrun, none) :=
  if_neg (Nat.not_lt.mpr h)

end

/-! ### The events of the receiver -/

section
variable {s : State} {value : Byte} {mark : Bool} {r : LinkReceiver}

/-- A character taken, by what the framing logic makes of it (R139, R141). -/
theorem exec_characterReceived {x : Option Accepted} (hline : s.lrx.line ≠ .waitHigh)
    (h : (s.lrx.afterCharacter mark).frame value mark s.tick = (r, x)) :
    exec (.characterReceived value mark) s = .next (({ s with lrx := r } : State).handOn x) := by
  change Host.Outcome.next _ = _
  split
  next hwait => exact absurd hwait hline
  all_goals
    rw [State.character, h]
    rfl

/-- A character that completes no frame changes only the receiver. -/
theorem exec_characterReceived_stored (hline : s.lrx.line ≠ .waitHigh)
    (h : (s.lrx.afterCharacter mark).frame value mark s.tick = (r, none)) :
    exec (.characterReceived value mark) s = .next { s with lrx := r } := exec_characterReceived hline h

theorem exec_characterReceived_waitHigh (h : s.lrx.line = .waitHigh) : exec (.characterReceived value mark) s = .next s := by
  change Host.Outcome.next _ = _
  rw [h]

theorem exec_gapTimerExpiry {g : Tick} (hg : s.lrx.gapTimer = some g) (hs : s.lrx.state ≠ .hunt) :
    exec .gapTimerExpiry s =
      .next (if 200 * 10000000 ≤ (s.tick - g).toNat * s.lrx.rate.bitsPerSecond then { s with lrx := s.lrx.discard .gap } else s) := by
  change Host.Outcome.next (if s.gapDue = true then _ else _) = _
  have hdue : s.gapDue = decide (200 * 10000000 ≤ (s.tick - g).toNat * s.lrx.rate.bitsPerSecond) := by
    rw [State.gapDue, hg]
    dsimp only
    rw [decide_eq_true hs, Bool.true_and]
    rfl
  simp only [hdue, decide_eq_true_eq]
  rfl

end

/-- A 16-bit word from its two bytes. -/
theorem toNat_bytes (hi lo : Byte) : (hi ++ lo : BitVec 16).toNat = lo.toNat + 256 * hi.toNat := by
  rw [BitVec.toNat_append, ← Nat.shiftLeft_add_eq_or_of_lt lo.isLt, Nat.shiftLeft_eq]
  omega

/-- Settles O50: the rows of Table 9-1 one by one, then the gap timer, the start bit and RXD HIGH. -/
theorem receiverEventsFollowTable : Obligations.ReceiverEventsFollowTable := by
  intro s value mark line b received whole accepted w hline hb hreceived hwhole haccepted hw
  obtain rfl : accepted = State.frameAccepted := funext fun x => (haccepted x).trans x.frameAccepted_eq.symm
  obtain rfl : received = fun r => .next { s with lrx := r } := funext hreceived
  subst hline hb hwhole
  refine ⟨exec_characterReceived_waitHigh, fun hne => ?_, fun g rate hg hs hrate => ?_, fun hg => ?_, fun hl => ?_, fun hl => ?_⟩
  · have htaken {r : LinkReceiver} (h : (s.lrx.afterCharacter mark).frame value mark s.tick = (r, none)) :
        exec (.characterReceived value mark) s = .next { s with lrx := r } :=
      exec_characterReceived_stored hne h
    refine ⟨fun hs hno => ?_, fun hs hv hm => ?_, fun hs hc => (htaken (LinkReceiver.frame_kind hs hc) :),
      fun hs hc => (htaken (LinkReceiver.frame_seq hs hc) :), fun hs hc hv => (htaken (LinkReceiver.frame_length hs hc hv) :),
      fun hs hc hv => (htaken (LinkReceiver.frame_tooLong hs hc hv) :), fun hs => (htaken (LinkReceiver.frame_payload hs) :),
      fun hs hc => ⟨value.setWidth 16, BitVec.toNat_setWidth_of_le (by decide), (htaken (LinkReceiver.frame_crcLow hs hc) :)⟩,
      fun hs hc hm => ?_, fun hs hc hm hm' => ?_⟩
    · refine htaken ((LinkReceiver.frame_hunt (r := s.lrx.afterCharacter mark) hs).trans (if_neg ?_))
      rintro ⟨hv, hm⟩
      exact hno.elim (fun h => h hv) fun h => by rw [h] at hm; cases hm
    · subst hm
      exact htaken ((LinkReceiver.frame_hunt (r := s.lrx.afterCharacter false) hs).trans (if_pos ⟨hv, rfl⟩))
    · exact htaken ((LinkReceiver.frame_crcHigh (r := s.lrx.afterCharacter mark) hs hc).trans (LinkReceiver.complete_framing hm))
    · subst hm'
      obtain ⟨r, hr⟩ : ∃ r, r = s.lrx.afterCharacter false := ⟨_, rfl⟩
      obtain ⟨b, hb⟩ : ∃ b : Assembly, b = { s.lrx.buffer with
          mark := s.lrx.buffer.mark || false, crcCount := 2, received := (value ++ s.lrx.buffer.received.setWidth 8 : BitVec 16) } := ⟨_, rfl⟩
      have hframe : (s.lrx.afterCharacter false).frame value false s.tick = r.complete b := by
        rw [hb, hr]
        exact LinkReceiver.frame_crcHigh hs hc
      have hmark : b.mark = false := by rw [hb, hm]; rfl
      have hreceived : b.received = w := by
        refine BitVec.eq_of_toNat_eq ?_
        rw [hb, hw, toNat_bytes, toNat_lowByte]
      have hrunning : b.running = s.lrx.buffer.running := by rw [hb]
      have hkind : b.kind = s.lrx.buffer.kind := by rw [hb]
      have hinbound : r.inbound = s.lrx.inbound := by rw [hr]; rfl
      rw [← hreceived, ← hrunning, ← hkind, ← hinbound]
      refine ⟨fun hcrc => ?_, fun hcrc => ⟨fun h1 h2 h3 => ?_, fun k hk => ⟨fun hroom => ?_, fun hfull => ?_⟩,
        fun hack => ⟨fun ho => ?_, fun ho => ?_⟩⟩⟩
      · rw [htaken (hframe.trans (LinkReceiver.complete_crc hmark hcrc)), hr]
        rfl
      · rw [htaken (hframe.trans (LinkReceiver.complete_kind hmark hcrc h1 h2 h3)), hr]
        rfl
      · have hqueued := (LinkReceiver.complete_queued (r := r) hmark hcrc hk).trans (LinkReceiver.enqueue_room hroom _)
        rw [exec_characterReceived hne (hframe.trans hqueued), hr, hb]
        rfl
      · have hqueued := (LinkReceiver.complete_queued (r := r) hmark hcrc hk).trans (LinkReceiver.enqueue_full hfull _)
        rw [htaken (hframe.trans hqueued), hr]
        rfl
      · rw [exec_characterReceived hne (hframe.trans (LinkReceiver.complete_ack hmark hcrc hack)), State.handOn, State.takeAck, if_pos ho, hr, hb]
        rfl
      · rw [exec_characterReceived hne (hframe.trans (LinkReceiver.complete_ack hmark hcrc hack)), State.handOn, State.takeAck, if_neg ho,
          State.frameAccepted, if_neg fun h => ho h.1, hr]
        rfl
  · rw [exec_gapTimerExpiry hg hs, hrate, LinkRate.bitsPerSecond_eq]
    exact ⟨fun hlt => by rw [if_neg (Nat.not_le.mpr hlt)], fun hle => by rw [if_pos hle]; rfl⟩
  · change Host.Outcome.next (if s.gapDue = true then _ else _) = _
    rw [State.gapDue, hg]
    rfl
  · change Host.Outcome.next _ = _
    rw [hl]
    rfl
  · change Host.Outcome.next _ = _
    rw [hl]
    rfl

end Sys2Proof.Machine
end

section
/-! Whole frames, delivered to the Link Receiver character by character (O49). -/

namespace Sys2Proof.Machine

/-! ### Events one after another -/

theorem takeEach_cons {i : Instr} {s t : State} (h : exec i s = .next t) (rest : List Instr) : takeEach (i :: rest) s = takeEach rest t := by
  rw [takeEach, h]

theorem takeEach_append {first : List Instr} {s t : State} (h : takeEach first s = .next t) (rest : List Instr) :
    takeEach (first ++ rest) s = takeEach rest t := by
  induction first generalizing s with
  | nil =>
    cases h
    rfl
  | cons i first ih =>
    rw [takeEach] at h
    rw [List.cons_append, takeEach]
    cases hi : exec i s with
    | next u =>
      rw [hi] at h
      exact ih h
    | fault f =>
      rw [hi] at h
      cases h
    | refused x =>
      rw [hi] at h
      cases h

/-- Unmarked characters delivered without start bits of their own. -/
def receive (bytes : List Byte) (s : State) : Result := takeEach (bytes.map fun b => .characterReceived b false) s

theorem State.handOn_lrx (s : State) (x : Option Accepted) : (s.handOn x).lrx = s.lrx := by
  obtain ⟨q, c, h⟩ := s.handOn_eq x
  rw [h]
  rfl

theorem LinkReceiver.afterCharacter_watching {r : LinkReceiver} (h : r.line = .watching) : r.afterCharacter false = r := by
  rw [LinkReceiver.afterCharacter, ← h]
  rfl

theorem LinkReceiver.enqueue_line (r : LinkReceiver) (e : Entry) : (r.enqueue e).1.line = r.line := by
  unfold LinkReceiver.enqueue
  split <;> rfl

theorem LinkReceiver.complete_line (r : LinkReceiver) (b : Assembly) : (r.complete b).1.line = r.line := by
  unfold LinkReceiver.complete
  split
  · rfl
  split
  · rfl
  split
  · rfl
  split
  · exact r.enqueue_line _
  split
  · exact r.enqueue_line _
  · rfl

/-- The framing logic does not move the line. -/
theorem LinkReceiver.frame_line (r : LinkReceiver) (value : Byte) (mark : Bool) (t : Tick) : (r.frame value mark t).1.line = r.line := by
  unfold LinkReceiver.frame
  split
  next => split <;> rfl
  next =>
    unfold LinkReceiver.takeHeader
    dsimp only
    split
    · rfl
    · rfl
    · split <;> rfl
  next => rfl
  next =>
    unfold LinkReceiver.takeCheck
    dsimp only
    split
    · rfl
    · exact r.complete_line _

/-- The characters of `chars`, each with or without its confirmed start bit, leave what their bytes leave (R139; log entry 11). -/
theorem deliver_eq_receive {s : State} (hlawful : s.lrx.lawful) (hline : s.lrx.line = .watching) (chars : List (Byte × Bool)) :
    deliver chars s = receive (chars.map Prod.fst) s := by
  induction chars generalizing s with
  | nil => rfl
  | cons c rest ih =>
    obtain ⟨b, confirmed⟩ := c
    rcases hframe : s.lrx.frame b false s.tick with ⟨r, x⟩
    have hexec : exec (.characterReceived b false) s = .next (({ s with lrx := r } : State).handOn x) :=
      exec_characterReceived (by rw [hline]; decide) (by rw [LinkReceiver.afterCharacter_watching hline, hframe])
    have hfirst : takeEach (characterEvents (b, confirmed)) s = .next (({ s with lrx := r } : State).handOn x) := by
      cases confirmed with
      | false => exact takeEach_cons hexec []
      | true =>
        exact (character_after_startBit hline (fun hs => by have := hlawful.buffer; rw [hs] at this; exact this.2) b).trans
          (takeEach_cons hexec [])
    have hlawful' : (({ s with lrx := r } : State).handOn x).lrx.lawful := by
      rw [State.handOn_lrx]
      have := hlawful.frame b false s.tick
      rwa [hframe] at this
    have hline' : (({ s with lrx := r } : State).handOn x).lrx.line = .watching := by
      rw [State.handOn_lrx]
      have := s.lrx.frame_line b false s.tick
      rwa [hframe, hline] at this
    rw [deliver, List.flatMap_cons, takeEach_append hfirst, List.map_cons, receive, List.map_cons, takeEach_cons hexec]
    exact ih hlawful' hline'

/-! ### A frame, field by field -/

/-- The buffer with the header of a frame and the payload bytes `done` of it. -/
def assembled (kind seq length : Byte) (done : List Byte) : Assembly :=
  { kind := kind, seq := seq, length := length, payload := done, headerCount := 3, crcCount := 0, received := Assembly.empty.received
    running := crcOf (kind :: seq :: length :: done), mark := false }

/-- A payload byte enters the buffer and the running CRC (R141). -/
theorem assembled_enter (kind seq length : Byte) (done : List Byte) (b : Byte) :
    { (assembled kind seq length done).enter b false with payload := done ++ [b] } = assembled kind seq length (done ++ [b]) := by
  have hcrc : crcByte (crcOf (kind :: seq :: length :: done)) b = crcOf (kind :: seq :: length :: (done ++ [b])) := by
    rw [crcOf, crcOf, ← List.cons_append, ← List.cons_append, ← List.cons_append, List.foldl_append]
    rfl
  simp only [assembled, Assembly.enter, hcrc, Bool.or_false]

section
variable {s : State}

theorem receive_cons {r : LinkReceiver} {b : Byte} (hline : s.lrx.line = .watching) (h : s.lrx.frame b false s.tick = (r, none))
    (rest : List Byte) : receive (b :: rest) s = receive rest { s with lrx := r } :=
  takeEach_cons (exec_characterReceived_stored (by rw [hline]; decide) (by rw [LinkReceiver.afterCharacter_watching hline, h])) _

/-- The start code and the header of a frame (Table 9-1). -/
theorem receive_header (hline : s.lrx.line = .watching) (hs : s.lrx.state = .hunt) {length : Byte} (hl : length.toNat ≤ 240)
    (kind seq : Byte) (rest : List Byte) :
    receive (0xC3 :: kind :: seq :: length :: rest) s =
      receive rest { s with lrx := s.lrx.stored (if 0 < length.toNat then .payload else .check) (assembled kind seq length []) s.tick } := by
  have hstart : s.lrx.frame 0xC3 false s.tick = (s.lrx.stored .header .empty s.tick, none) :=
    (LinkReceiver.frame_hunt hs).trans (if_pos ⟨rfl, rfl⟩)
  have hzero : (if length = 0 then RxState.check else .payload) = if 0 < length.toNat then .payload else .check := by
    by_cases h0 : length = 0
    · rw [h0]
      rfl
    · rw [if_neg h0, if_pos (Nat.pos_of_ne_zero fun h => h0 (BitVec.eq_of_toNat_eq h))]
  rw [receive_cons hline hstart, receive_cons (by exact hline) (LinkReceiver.frame_kind rfl rfl),
    receive_cons (by exact hline) (LinkReceiver.frame_seq rfl rfl), receive_cons (by exact hline) (LinkReceiver.frame_length rfl rfl hl),
    hzero]
  rfl

/-- Payload bytes, the last of them bringing the receiver to CHECK (Table 9-1). -/
theorem receive_payload (hline : s.lrx.line = .watching) {kind seq length : Byte} (done payload rest : List Byte)
    (hlength : done.length + payload.length = length.toNat) :
    receive (payload ++ rest)
        { s with lrx := s.lrx.stored (if done.length < length.toNat then .payload else .check) (assembled kind seq length done) s.tick } =
      receive rest { s with lrx := s.lrx.stored .check (assembled kind seq length (done ++ payload)) s.tick } := by
  induction payload generalizing done with
  | nil =>
    rw [if_neg (by rw [List.length_nil] at hlength; omega), List.append_nil]
    rfl
  | cons b payload ih =>
    rw [List.length_cons] at hlength
    rw [if_pos (by omega), List.cons_append, receive_cons (by exact hline) (LinkReceiver.frame_payload rfl)]
    have hstep := ih (done ++ [b]) (by rw [List.length_append, List.length_singleton]; omega)
    rw [List.append_assoc, List.singleton_append, List.length_append, List.length_singleton] at hstep
    rw [← hstep, ← assembled_enter]
    rfl

theorem LinkReceiver.complete_stored (r : LinkReceiver) (st : RxState) (b b' : Assembly) (t : Tick) :
    (r.stored st b t).complete b' = r.complete b' := rfl

/-- The CRC bytes of a frame: the check of the whole frame (R143). -/
theorem receive_check (hline : s.lrx.line = .watching) (hs : s.lrx.state = .check) (hc : s.lrx.buffer.crcCount = 0) (c0 c1 : Byte)
    {r : LinkReceiver} {x : Option Accepted}
    (h : s.lrx.complete { s.lrx.buffer with crcCount := 2, received := (c1 ++ c0 : BitVec 16) } = (r, x)) :
    receive [c0, c1] s = .next (({ s with lrx := r } : State).handOn x) := by
  have hlow : (c0.setWidth 16).setWidth 8 = c0 := by
    rw [BitVec.setWidth_setWidth_of_le _ (by decide), BitVec.setWidth_eq]
  obtain ⟨r1, hr1⟩ : ∃ r1, r1 = s.lrx.stored s.lrx.state
    { s.lrx.buffer with mark := s.lrx.buffer.mark || false, crcCount := 1, received := c0.setWidth 16 } s.tick := ⟨_, rfl⟩
  have hline1 : r1.line = .watching := by rw [hr1]; exact hline
  have hlast : r1.frame c1 false s.tick = (r, x) := by
    rw [LinkReceiver.frame_crcHigh (by rw [hr1]; exact hs) (by rw [hr1]; rfl), ← h, hr1, LinkReceiver.complete_stored]
    simp only [LinkReceiver.stored, hlow, Bool.or_false]
  rw [receive_cons hline ((LinkReceiver.frame_crcLow hs hc).trans (by rw [← hr1]))]
  have hexec : exec (.characterReceived c1 false) { s with lrx := r1 } = .next (({ s with lrx := r } : State).handOn x) :=
    exec_characterReceived (s := { s with lrx := r1 }) (by rw [hline1]; decide)
      (by rw [LinkReceiver.afterCharacter_watching hline1, hlast])
  exact takeEach_cons hexec []

/-- A frame assembled whole, with its CRC bytes. -/
def wholeFrame (kind seq : Byte) (payload : List Byte) (crc : BitVec 16) : Assembly :=
  { assembled kind seq (BitVec.ofNat 8 payload.length) payload with crcCount := 2, received := crc }

/-- A whole frame leaves what its check leaves. -/
theorem receive_frame (hline : s.lrx.line = .watching) (hs : s.lrx.state = .hunt) (kind seq : Byte) {payload : List Byte}
    (hl : payload.length ≤ 240) (c0 c1 : Byte) {r : LinkReceiver} {x : Option Accepted}
    (h : s.lrx.complete (wholeFrame kind seq payload (c1 ++ c0)) = (r, x)) :
    receive (0xC3 :: kind :: seq :: BitVec.ofNat 8 payload.length :: (payload ++ [c0, c1])) s = .next (({ s with lrx := r } : State).handOn x) := by
  have hlength : (BitVec.ofNat 8 payload.length).toNat = payload.length := toNat_ofNat8 (by omega)
  have hpayload := receive_payload (s := s) hline (kind := kind) (seq := seq) (length := BitVec.ofNat 8 payload.length) [] payload [c0, c1]
    (by rw [hlength, List.length_nil, Nat.zero_add])
  rw [receive_header hline hs (by omega)]
  refine hpayload.trans ?_
  exact receive_check (s := { s with lrx := s.lrx.stored .check _ s.tick }) hline rfl rfl c0 c1 h

end

/-! ### The check of a whole frame -/

theorem LinkReceiver.lawful.toHunt_eq {r : LinkReceiver} (h : r.lawful) (hs : r.state = .hunt) : r.toHunt = r := by
  have hb := h.buffer
  rw [hs] at hb
  obtain ⟨hbuffer, hgap⟩ := hb
  rw [LinkReceiver.toHunt, ← hs, ← hbuffer, ← hgap]

theorem LinkReceiver.lawful.discard_eq {r : LinkReceiver} (h : r.lawful) (hs : r.state = .hunt) (cause : DiscardCause) :
    r.discard cause = { r with stats := r.stats.count cause } := by
  rw [LinkReceiver.discard, h.toHunt_eq hs]

/-- The CRC bytes of a word, put back together. -/
theorem putBits16_append (c0 c1 : Byte) : putBits16 (c1 ++ c0 : BitVec 16) = [c0, c1] := by
  have h0 := c0.isLt
  have hlow : ((c1 ++ c0 : BitVec 16).setWidth 8 : Byte) = c0 := by
    refine BitVec.eq_of_toNat_eq ?_
    rw [toNat_lowByte, toNat_bytes]
    omega
  have hhigh : (((c1 ++ c0 : BitVec 16) >>> 8).setWidth 8 : Byte) = c1 := by
    have h1 := c1.isLt
    refine BitVec.eq_of_toNat_eq ?_
    rw [toNat_byteAt, toNat_bytes]
    omega
  rw [putBits16, hlow, hhigh]

/-- Settles O49: the characters as bytes, the bytes as an assembled frame, and its check. -/
theorem framesAreReceivedWholeOrDropped : Obligations.FramesAreReceivedWholeOrDropped := by
  intro s kind seq payload chars accepted hline hs hlawful hl haccepted
  obtain rfl : accepted = State.frameAccepted := funext fun x => (haccepted x).trans x.frameAccepted_eq.symm
  have hdiscard := hlawful.discard_eq hs
  have hhunt := hlawful.toHunt_eq hs
  rw [deliver_eq_receive hlawful hline]
  refine ⟨fun hchars => ?_, fun c0 c1 hcrc hchars => ?_⟩
  · obtain ⟨w, hw⟩ : ∃ w, w = crcOf (kind :: seq :: BitVec.ofNat 8 payload.length :: payload) := ⟨_, rfl⟩
    have hbytes : frameBytes kind seq payload =
        0xC3 :: kind :: seq :: BitVec.ofNat 8 payload.length :: (payload ++ [w.setWidth 8, (w >>> 8).setWidth 8]) := by
      rw [hw]
      rfl
    have hwhole {r : LinkReceiver} {x : Option Accepted} (h : s.lrx.complete (wholeFrame kind seq payload w) = (r, x)) :
        receive (chars.map Prod.fst) s = .next (({ s with lrx := r } : State).handOn x) := by
      rw [hchars, hbytes]
      refine receive_frame hline hs kind seq hl (w.setWidth 8) ((w >>> 8).setWidth 8) ?_
      rw [bits16_split, h]
    have hvalid : (wholeFrame kind seq payload w).received = (wholeFrame kind seq payload w).running := by
      simp only [wholeFrame, assembled]
      exact hw
    refine ⟨fun k hk => ⟨fun hroom => ?_, fun hfull => ?_⟩, fun hack ho => ?_, fun hack ho => ?_, fun h1 h2 h3 => ?_⟩
    · rw [hwhole ((LinkReceiver.complete_queued rfl hvalid hk).trans (LinkReceiver.enqueue_room hroom _)), hhunt]
      rfl
    · rw [hwhole ((LinkReceiver.complete_queued rfl hvalid hk).trans (LinkReceiver.enqueue_full hfull.ge _)), hdiscard]
      rfl
    · rw [hwhole (LinkReceiver.complete_ack rfl hvalid hack), hhunt, State.handOn, State.takeAck, if_pos ho]
      rfl
    · rw [hwhole (LinkReceiver.complete_ack rfl hvalid hack), hhunt, State.handOn, State.takeAck, if_neg ho, State.frameAccepted,
        if_neg fun h => ho h.1]
    · rw [hwhole (LinkReceiver.complete_kind rfl hvalid h1 h2 h3), hdiscard]
      rfl
  · have hne : (c1 ++ c0 : BitVec 16) ≠ crcOf (kind :: seq :: BitVec.ofNat 8 payload.length :: payload) := fun h =>
      hcrc (by rw [← h, putBits16_append])
    have hinvalid : (wholeFrame kind seq payload (c1 ++ c0)).received ≠ (wholeFrame kind seq payload (c1 ++ c0)).running := by
      simp only [wholeFrame, assembled]
      exact hne
    rw [hchars, receive_frame hline hs kind seq hl c0 c1 (LinkReceiver.complete_crc rfl hinvalid), hdiscard]
    rfl

end Sys2Proof.Machine
end

section
/-! The choice of the idle transmitter (O51). -/

namespace Sys2Proof.Machine

/-! ### The record offered (R127, R128) -/

section
variable {p : ReportRecord → Bool} {older newer : List ReportRecord} {r : ReportRecord}

theorem find?_first (ho : ∀ x ∈ older, p x = false) (hr : p r = true) : (older ++ r :: newer).find? p = some r := by
  have hnone : older.find? p = none := List.find?_eq_none.mpr fun x hx => by rw [ho x hx]; decide
  rw [List.find?_append, hnone, Option.none_or, List.find?_cons_of_pos hr]

theorem sendFirst_first (ho : ∀ x ∈ older, p x = false) (hr : p r = true) (st : SendState) :
    sendFirst p st (older ++ r :: newer) = older ++ { r with send := st } :: newer := by
  induction older with
  | nil => exact if_pos hr
  | cons x older ih =>
    rw [List.cons_append, sendFirst, if_neg (by rw [ho x List.mem_cons_self]; decide), ih fun y hy => ho y (List.mem_cons_of_mem x hy)]
    rfl

end

/-- A record in flight: neither to be sent again nor unsent. -/
theorem SendState.awaiting_flags {st : SendState} (h : ∃ k, st = .awaiting k) : st.resending = false ∧ (!st.sent) = false := by
  obtain ⟨k, rfl⟩ := h
  exact ⟨rfl, rfl⟩

section
variable {q : ReportQueue} {older newer : List ReportRecord} {r : ReportRecord}

theorem ReportQueue.offered_none (h : ∀ x ∈ q.records, ∃ k, x.send = .awaiting k) (p : LinkParams) : q.offered p = none := by
  have hresend : q.records.find? (·.send.resending) = none :=
    List.find?_eq_none.mpr fun x hx => by rw [(SendState.awaiting_flags (h x hx)).1]; decide
  have hunsent : q.records.find? (fun r => !r.send.sent) = none :=
    List.find?_eq_none.mpr fun x hx => by rw [(SendState.awaiting_flags (h x hx)).2]; decide
  rw [ReportQueue.offered, hresend]
  dsimp only
  rw [hunsent, ite_self]

theorem ReportQueue.offered_resend (hq : q.records = older ++ r :: newer) {n : Byte} (hr : r.send = .resend n)
    (ho : ∀ x ∈ older, ∃ k, x.send = .awaiting k) (p : LinkParams) : q.offered p = some r := by
  rw [ReportQueue.offered, hq, find?_first (fun x hx => (SendState.awaiting_flags (ho x hx)).1) (by rw [hr]; rfl)]

theorem ReportQueue.sentCount_of_split (hq : q.records = older ++ r :: newer) (hr : r.send = .unsent)
    (ho : ∀ x ∈ older, ∃ k, x.send = .awaiting k) (hn : ∀ x ∈ newer, x.send = .unsent) : q.sentCount = older.length := by
  have holder : older.filter (·.send.sent) = older := List.filter_eq_self.mpr fun x hx => by
    obtain ⟨k, hk⟩ := ho x hx
    rw [hk]
    rfl
  have hnewer : newer.filter (·.send.sent) = [] := List.filter_eq_nil_iff.mpr fun x hx => by rw [hn x hx]; decide
  rw [ReportQueue.sentCount, hq, List.filter_append, holder, List.filter_cons_of_neg (by rw [hr]; decide), hnewer, List.append_nil]

/-- The oldest unsent record is offered within the window (R127). -/
theorem ReportQueue.offered_unsent (hq : q.records = older ++ r :: newer) (hr : r.send = .unsent)
    (ho : ∀ x ∈ older, ∃ k, x.send = .awaiting k) (hn : ∀ x ∈ newer, x.send = .unsent) (p : LinkParams) :
    q.offered p = if older.length < p.window then some r else none := by
  have hresend : q.records.find? (·.send.resending) = none := by
    refine List.find?_eq_none.mpr fun x hx => ?_
    rw [hq, List.mem_append, List.mem_cons] at hx
    rcases hx with hx | rfl | hx
    · rw [(SendState.awaiting_flags (ho x hx)).1]; decide
    · rw [hr]; decide
    · rw [hn x hx]; decide
  rw [ReportQueue.offered, hresend]
  dsimp only
  rw [ReportQueue.sentCount_of_split hq hr ho hn, hq, find?_first (fun x hx => (SendState.awaiting_flags (ho x hx)).2) (by rw [hr]; rfl)]

theorem ReportQueue.send_resend (hq : q.records = older ++ r :: newer) {n : Byte} (hr : r.send = .resend n)
    (ho : ∀ x ∈ older, ∃ k, x.send = .awaiting k) (p : LinkParams) (t : Tick) :
    q.send r p t = (n, { q with records := older ++ { r with send := .awaiting n } :: newer }) := by
  rw [ReportQueue.send, hr]
  dsimp only [SendState.number]
  rw [ReportQueue.sendAgain, hq, sendFirst_first (fun x hx => (SendState.awaiting_flags (ho x hx)).1) (by rw [hr]; rfl)]

theorem ReportQueue.send_unsent (hq : q.records = older ++ r :: newer) (hr : r.send = .unsent)
    (ho : ∀ x ∈ older, ∃ k, x.send = .awaiting k) (hn : ∀ x ∈ newer, x.send = .unsent) (p : LinkParams) (t : Tick) :
    q.send r p t = (q.nextSeq, { q with
      records := older ++ { r with send := .awaiting q.nextSeq } :: newer
      nextSeq := q.nextSeq + 1
      ackTimer := if older = [] then some (t + BitVec.ofNat 48 (10000 * p.ack)) else q.ackTimer }) := by
  rw [ReportQueue.send, hr]
  dsimp only [SendState.number]
  rw [ReportQueue.sendNew, ReportQueue.sentCount_of_split hq hr ho hn, hq,
    sendFirst_first (fun x hx => (SendState.awaiting_flags (ho x hx)).2) (by rw [hr]; rfl)]
  simp only [List.length_eq_zero_iff]
  rfl

end

/-! ### TX_TAKE_FRAME (R147) -/

theorem helloPayload_eq (c : CommandInterpreter) (r : RunControl) :
    helloPayload c r =
      [BitVec.ofNat 8 c.resetCause.code, c.epoch, BitVec.ofNat 8 c.session.code, BitVec.ofNat 8 r.state.code, BitVec.ofNat 8 r.cause.code,
        0x21, 0x16, 0x08, 8, 0, 1, 16, 16, 8, 128, 64, 4, 8] := by
  have hpart : put16 Config.partCode = [0x16, 0x08] := by decide
  have hcapacities : putCapacities = [8, 0, 1, 16, 16, 8, 128, 64, 4, 8] := by decide
  rw [helloPayload, hpart, hcapacities]
  rfl

section
variable {s : State}

theorem exec_txTakeFrame (h : s.ltx.sending = none) : exec .txTakeFrame s = .next s.takeFrame := by
  change Host.Outcome.next _ = _
  rw [h]

theorem State.takeFrame_reply {r : Reply} (h : s.ltx.slot = some r) : s.takeFrame = s.setLtx (s.ltx.start r.frame s.tick) := by
  rw [State.takeFrame, h]

theorem State.takeFrame_hello (h : s.ltx.slot = none) (hp : s.ltx.helloPending = true) :
    s.takeFrame = s.setLtx { s.ltx.start s.helloFrame s.tick with helloPending := false } := by
  rw [State.takeFrame, h]
  exact if_pos hp

theorem State.takeFrame_idle (h : s.ltx.slot = none) (hp : s.ltx.helloPending = false) (ho : s.offered = none) : s.takeFrame = s := by
  rw [State.takeFrame, h]
  dsimp only
  rw [if_neg (by rw [hp]; decide), ho]

theorem State.takeFrame_report (h : s.ltx.slot = none) (hp : s.ltx.helloPending = false) {r : ReportRecord} (ho : s.offered = some r) {n : Byte}
    {q : ReportQueue} (hsend : s.rpq.send r s.cmi.params s.tick = (n, q)) :
    s.takeFrame = { s with
      rpq := q
      ltx := { s.ltx with
        sending := some { frame := { kind := .report, seq := n, payload := reportPayload r }, sent := 0, started := s.tick } } } := by
  rw [State.takeFrame, h]
  dsimp only
  rw [if_neg (by rw [hp]; decide), ho]
  dsimp only
  rw [hsend]
  rfl

end

/-- Settles O51: the reply, the HELLO, then what the Report Queue offers. -/
theorem transmitterTakesInOrder : Obligations.TransmitterTakesInOrder := by
  intro s hidle
  have hexec := exec_txTakeFrame hidle
  refine ⟨fun r hr => ?_, fun hslot hp => ?_, fun hslot hp => ⟨fun hno => ?_, fun ho hx older newer r hq => ?_⟩⟩
  · rw [hexec, State.takeFrame_reply hr]
    rfl
  · rw [hexec, State.takeFrame_hello hslot hp, State.helloFrame, helloPayload_eq]
    rfl
  · have hoffered : s.offered = none := by
      rw [State.offered, ite_eq_right_iff]
      rintro ⟨ho, hx⟩
      rcases hno with hno | hno | hno
      · exact absurd ho hno
      · rw [hx] at hno
        cases hno
      · exact ReportQueue.offered_none hno _
    rw [hexec, State.takeFrame_idle hslot hp hoffered]
  · have hoffered : s.offered = s.rpq.offered s.cmi.params := if_pos ⟨ho, hx⟩
    refine ⟨fun n hr hold => ?_, fun hr hold hnew => ⟨fun hwindow => ?_, fun hwindow => ?_⟩⟩
    · rw [hexec, State.takeFrame_report hslot hp (hoffered.trans (ReportQueue.offered_resend hq hr hold _)) (ReportQueue.send_resend hq hr hold _ _)]
    · rw [ReportQueue.offered_unsent hq hr hold hnew, if_neg (Nat.not_lt.mpr hwindow)] at hoffered
      rw [hexec, State.takeFrame_idle hslot hp hoffered]
    · rw [ReportQueue.offered_unsent hq hr hold hnew, if_pos hwindow] at hoffered
      rw [hexec, State.takeFrame_report hslot hp hoffered (ReportQueue.send_unsent hq hr hold hnew _ _)]

end Sys2Proof.Machine
end

section
/-! A count and the chains of REVS axes that it reaches (O10). -/

namespace Sys2Proof.Machine

/-! ### The chain of sources -/

/-- No chain of sources comes back to where it began (R4 check 6). -/
def State.acyclic (s : State) : Prop := ∀ x b : Axis, s.sourceOf b = some x → ¬s.sourceChainMeets x b

theorem State.nextSource_none (s : State) (k : Nat) : s.nextSource^[k] none = none := by
  induction k with
  | zero => rfl
  | succ k ih => rw [Function.iterate_succ_apply]; exact ih

theorem State.acyclic.iterate_ne {s : State} (h : s.acyclic) (a : Axis) (k : Nat) : s.nextSource^[k + 1] (some a) ≠ some a := by
  rw [Function.iterate_succ_apply]
  change s.nextSource^[k] (s.sourceOf a) ≠ some a
  cases hs : s.sourceOf a with
  | none =>
    rw [s.nextSource_none]
    nofun
  | some x => exact fun hk => h x a hs ⟨k, hk⟩

/-- One axis lies at one distance only from another along the chain. -/
theorem State.acyclic.iterate_inj {s : State} (h : s.acyclic) {c a : Axis} {j k : Nat} (hj : s.nextSource^[j] (some c) = some a)
    (hk : s.nextSource^[k] (some c) = some a) : j = k := by
  have hlt : ∀ {j k : Nat}, s.nextSource^[j] (some c) = some a → s.nextSource^[k] (some c) = some a → ¬ j < k := by
    intro j k hj hk hjk
    obtain ⟨n, rfl⟩ : ∃ n, k = n + 1 + j := ⟨k - j - 1, by omega⟩
    rw [Function.iterate_add_apply, hj] at hk
    exact h.iterate_ne a n hk
  have h1 := hlt hj hk
  have h2 := hlt hk hj
  omega

theorem State.countsWrapsOf_iff (s : State) (a b : Axis) : s.countsWrapsOf a b = true ↔ s.sourceOf b = some a := by
  rw [State.countsWrapsOf, State.sourceOf, Bool.and_eq_true, decide_eq_true_iff, decide_eq_true_iff]
  cases (s.axis b).config.mode <;> simp

/-- A chain that always goes on reaches an axis that has no source, there being eight axes. -/
theorem State.acyclic.reaches {s : State} (h : s.acyclic) {p : Axis → Prop} {a : Axis}
    (hp : ∀ b, p b → b ≠ a → ∃ x, s.sourceOf b = some x ∧ p x) {b : Axis} (hb : p b) : s.sourceChainMeets b a := by
  by_contra hno
  have hchain : ∀ k, ∃ x, s.nextSource^[k] (some b) = some x ∧ p x := by
    intro k
    induction k with
    | zero => exact ⟨b, rfl, hb⟩
    | succ k ih =>
      obtain ⟨x, hx, hpx⟩ := ih
      obtain ⟨y, hy, hpy⟩ := hp x hpx fun hxa => hno ⟨k, hxa ▸ hx⟩
      exact ⟨y, by rw [Function.iterate_succ_apply', hx]; exact hy, hpy⟩
  choose x hx _ using hchain
  obtain ⟨j, k, hne, hjk⟩ := Finite.exists_ne_map_eq_of_infinite x
  exact hne (h.iterate_inj (hx j) (hjk ▸ hx k))

/-! ### The axes that a count reaches, in the order of the model -/

/-- The counts that a count of axis `a` in direction `d` brings about, to `depth` axes along a chain, each with its axis; the axes and their
wraps are read in the state before all of them. -/
def State.countList (s : State) : Nat → Axis → Direction → List (Axis × Direction)
  | 0, _, _ => []
  | depth + 1, a, d =>
    (a, d) :: (match s.wrapOf a d with
      | none => []
      | some w => (allAxes.filter fun b => s.countsWrapsOf a b).flatMap fun b => s.countList depth b w)

section
variable {s : State}

theorem State.countList_none {a : Axis} {d : Direction} (h : s.wrapOf a d = none) (depth : Nat) : s.countList (depth + 1) a d = [(a, d)] := by
  rw [State.countList, h]

theorem State.countList_wrap {a : Axis} {d w : Direction} (h : s.wrapOf a d = some w) (depth : Nat) :
    s.countList (depth + 1) a d = (a, d) :: (allAxes.filter fun b => s.countsWrapsOf a b).flatMap fun b => s.countList depth b w := by
  rw [State.countList, h]

/-- Every axis reached stands on a chain that leads to the first. -/
theorem State.chain_of_mem_countList {depth : Nat} {a : Axis} {d : Direction} {c : Axis} (h : c ∈ (s.countList depth a d).map Prod.fst) :
    ∃ k, s.nextSource^[k] (some c) = some a := by
  induction depth generalizing a d with
  | zero => cases h
  | succ depth ih =>
    cases hw : s.wrapOf a d with
    | none =>
      rw [State.countList_none hw] at h
      exact ⟨0, congrArg some (List.mem_singleton.mp h)⟩
    | some w =>
      rw [State.countList_wrap hw, List.map_cons, List.map_flatMap] at h
      rcases List.mem_cons.mp h with rfl | h
      · exact ⟨0, rfl⟩
      · obtain ⟨b, hb, hc⟩ := List.mem_flatMap.mp h
        obtain ⟨k, hk⟩ := ih hc
        have hsource := (s.countsWrapsOf_iff a b).mp (List.mem_filter.mp hb).2
        exact ⟨k + 1, by rw [Function.iterate_succ_apply', hk]; exact hsource⟩

/-- No axis is counted twice. -/
theorem State.acyclic.countList_nodup (hs : s.acyclic) (depth : Nat) (a : Axis) (d : Direction) :
    ((s.countList depth a d).map Prod.fst).Nodup := by
  induction depth generalizing a d with
  | zero => exact List.nodup_nil
  | succ depth ih =>
    cases hw : s.wrapOf a d with
    | none =>
      rw [State.countList_none hw]
      exact List.nodup_singleton a
    | some w =>
      have hsource {b : Axis} (hb : b ∈ allAxes.filter fun b => s.countsWrapsOf a b) : s.sourceOf b = some a :=
        (s.countsWrapsOf_iff a b).mp (List.mem_filter.mp hb).2
      have hlevel {b c : Axis} (hb : b ∈ allAxes.filter fun b => s.countsWrapsOf a b) {k : Nat} (hk : s.nextSource^[k] (some c) = some b) :
          s.nextSource^[k + 1] (some c) = some a := by
        rw [Function.iterate_succ_apply', hk]
        exact hsource hb
      rw [State.countList_wrap hw, List.map_cons, List.map_flatMap, List.nodup_cons, List.nodup_flatMap]
      refine ⟨fun ha => ?_, fun b _ => ih b w, ?_⟩
      · obtain ⟨b, hb, hmem⟩ := List.mem_flatMap.mp ha
        obtain ⟨k, hk⟩ := State.chain_of_mem_countList hmem
        exact hs.iterate_ne a k (hlevel hb hk)
      · have hnodup : (allAxes.filter fun b => s.countsWrapsOf a b).Nodup := List.Nodup.filter _ (by decide)
        refine List.Pairwise.imp_of_mem (fun {b b'} hb hb' hne => ?_) hnodup
        intro c hc hc'
        obtain ⟨k, hk⟩ := State.chain_of_mem_countList hc
        obtain ⟨k', hk'⟩ := State.chain_of_mem_countList hc'
        have : k + 1 = k' + 1 := hs.iterate_inj (hlevel hb hk) (hlevel hb' hk')
        obtain rfl : k = k' := by omega
        exact hne (Option.some.inj (hk.symm.trans hk'))

theorem State.mem_countList_self (depth : Nat) (a : Axis) (d : Direction) : (a, d) ∈ s.countList (depth + 1) a d := by
  rw [State.countList]
  exact List.mem_cons_self

/-- A count that wraps reaches the axes that count its axis, one step further down the chain. -/
theorem State.mem_countList_follow {depth : Nat} {a x b : Axis} {d f w : Direction} (h : (x, f) ∈ s.countList depth a d)
    (hw : s.wrapOf x f = some w) (hb : s.sourceOf b = some x) : (b, w) ∈ s.countList (depth + 1) a d := by
  induction depth generalizing a d with
  | zero => cases h
  | succ depth ih =>
    cases hw' : s.wrapOf a d with
    | none =>
      rw [State.countList_none hw', List.mem_singleton] at h
      cases h
      rw [hw'] at hw
      cases hw
    | some v =>
      rw [State.countList_wrap hw'] at h ⊢
      rcases List.mem_cons.mp h with heq | h
      · cases heq
        obtain rfl : v = w := Option.some.inj (hw'.symm.trans hw)
        refine List.mem_cons_of_mem _ (List.mem_flatMap.mpr ⟨b, ?_, State.mem_countList_self depth b v⟩)
        exact List.mem_filter.mpr ⟨mem_allAxes b, (s.countsWrapsOf_iff _ b).mpr hb⟩
      · obtain ⟨c, hc, hmem⟩ := List.mem_flatMap.mp h
        exact List.mem_cons_of_mem _ (List.mem_flatMap.mpr ⟨c, hc, ih hmem⟩)

theorem State.countList_mono {depth : Nat} {a : Axis} {d : Direction} {p : Axis × Direction} (h : p ∈ s.countList depth a d) :
    p ∈ s.countList (depth + 1) a d := by
  induction depth generalizing a d with
  | zero => cases h
  | succ depth ih =>
    cases hw : s.wrapOf a d with
    | none =>
      rw [State.countList_none hw] at h ⊢
      exact h
    | some w =>
      rw [State.countList_wrap hw] at h ⊢
      rcases List.mem_cons.mp h with rfl | h
      · exact List.mem_cons_self
      · obtain ⟨b, hb, hmem⟩ := List.mem_flatMap.mp h
        exact List.mem_cons_of_mem _ (List.mem_flatMap.mpr ⟨b, hb, ih hmem⟩)

theorem State.countList_mono_le {j k : Nat} (hjk : j ≤ k) {a : Axis} {d : Direction} {p : Axis × Direction} (h : p ∈ s.countList j a d) :
    p ∈ s.countList k a d := by
  induction hjk with
  | refl => exact h
  | step _ ih => exact State.countList_mono ih

end

end Sys2Proof.Machine
end

section
/-! What a count leaves at the axes that it reaches (O10). -/

namespace Sys2Proof.Machine

/-! ### One count -/

/-- An axis after a count of direction `d` at tick `t`: the step, or the refusal at the limit (R14, R15). -/
def AxisUnit.counted (u : AxisUnit) (d : Direction) (t : Tick) : AxisUnit :=
  match u.config.countTo u.pos (u.config.directed d) with
  | some (p, _) => u.takeStep p (u.config.directed d) t
  | none => { u with limitFlag := true }

/-- A count of direction `d` is refused with a report (R15, R16). -/
def AxisUnit.refuses (u : AxisUnit) (d : Direction) : Bool := (u.config.countTo u.pos (u.config.directed d)).isNone && !u.limitFlag

/-- The Report Queue after the refusal of a count of axis `b` (R16). -/
def takeRefusal (unit : Axis → AxisUnit) (t : Tick) (q : ReportQueue) (b : Axis) : ReportQueue :=
  q.take (.axisFault b .limit (unit b).pos t (unit b).phaseErrors) t

theorem State.countAxis_eq (s : State) (a : Axis) (d : Direction) :
    s.countAxis a d =
      { s.setAxis a ((s.axis a).counted d s.tick) with
        rpq := if (s.axis a).refuses d then takeRefusal s.axis s.tick s.rpq a else s.rpq } := by
  unfold State.countAxis AxisUnit.counted AxisUnit.refuses
  dsimp only
  cases (s.axis a).config.countTo (s.axis a).pos ((s.axis a).config.directed d) with
  | some x => rfl
  | none => cases (s.axis a).limitFlag <;> rfl

theorem AxisUnit.counted_config (u : AxisUnit) (d : Direction) (t : Tick) : (u.counted d t).config = u.config := by
  unfold AxisUnit.counted
  split <;> rfl

theorem State.countAxis_same (s : State) (a : Axis) (d : Direction) : (s.countAxis a d).axis a = (s.axis a).counted d s.tick := by
  rw [s.countAxis_eq]
  exact s.setAxis_same a _

theorem State.countAxis_other {s : State} {a c : Axis} (h : c ≠ a) (d : Direction) : (s.countAxis a d).axis c = s.axis c := by
  rw [s.countAxis_eq]
  exact s.setAxis_other a c _ h

theorem State.countAxis_tick (s : State) (a : Axis) (d : Direction) : (s.countAxis a d).tick = s.tick := by
  rw [s.countAxis_eq]
  rfl

theorem State.countAxis_config (s : State) (a c : Axis) (d : Direction) : ((s.countAxis a d).axis c).config = (s.axis c).config := by
  by_cases h : c = a
  · rw [h, s.countAxis_same, AxisUnit.counted_config]
  · rw [State.countAxis_other h]

/-! ### Counts one after another -/

/-- The counts of a list, taken one after another. -/
def State.countEach (l : List (Axis × Direction)) (s : State) : State := l.foldl (fun t p => t.countAxis p.1 p.2) s

theorem State.countEach_append (l l' : List (Axis × Direction)) (s : State) :
    State.countEach (l ++ l') s = State.countEach l' (State.countEach l s) := List.foldl_append

theorem State.countEach_config (l : List (Axis × Direction)) (s : State) (c : Axis) :
    ((State.countEach l s).axis c).config = (s.axis c).config := by
  induction l generalizing s with
  | nil => rfl
  | cons p l ih => exact (ih _).trans (s.countAxis_config p.1 c p.2)

theorem State.countEach_other {l : List (Axis × Direction)} {c : Axis} (h : c ∉ l.map Prod.fst) (s : State) :
    (State.countEach l s).axis c = s.axis c := by
  induction l generalizing s with
  | nil => rfl
  | cons p l ih =>
    rw [List.map_cons, List.mem_cons, not_or] at h
    exact (ih h.2 _).trans (State.countAxis_other h.1 p.2)

/-- An axis counted once stands as its one count leaves it. -/
theorem State.countEach_mem {l : List (Axis × Direction)} (hl : (l.map Prod.fst).Nodup) {c : Axis} {e : Direction} (h : (c, e) ∈ l) (s : State) :
    (State.countEach l s).axis c = (s.axis c).counted e s.tick := by
  induction l generalizing s with
  | nil => cases h
  | cons p l ih =>
    rw [List.map_cons, List.nodup_cons] at hl
    rcases List.mem_cons.mp h with rfl | h
    · exact (State.countEach_other hl.1 _).trans (s.countAxis_same c e)
    · have hne : c ≠ p.1 := by
        rintro rfl
        exact hl.1 (List.mem_map.mpr ⟨_, h, rfl⟩)
      refine (ih hl.2 h _).trans ?_
      rw [State.countAxis_other hne, s.countAxis_tick]

/-- The axes of a list of counts that are refused with a report. -/
def refusals (unit : Axis → AxisUnit) (l : List (Axis × Direction)) : List Axis := (l.filter fun p => (unit p.1).refuses p.2).map Prod.fst

theorem refusals_cons (unit : Axis → AxisUnit) (p : Axis × Direction) (l : List (Axis × Direction)) :
    refusals unit (p :: l) = if (unit p.1).refuses p.2 then p.1 :: refusals unit l else refusals unit l := by
  rw [refusals, List.filter_cons]
  split <;> rfl

theorem State.countAxis_frame_eq (s : State) (a : Axis) (d : Direction) :
    s.countAxis a d = { s with axes := (s.countAxis a d).axes, rpq := (s.countAxis a d).rpq } := by
  rw [s.countAxis_eq]
  rfl

theorem State.frame_trans {s u : State} (h : u = { s with axes := u.axes, rpq := u.rpq }) (axes : Vector AxisUnit 8) (q : ReportQueue) :
    ({ u with axes := axes, rpq := q } : State) = { s with axes := axes, rpq := q } := by
  rw [h]

theorem State.countAxis_rpq {s : State} {unit : Axis → AxisUnit} {a : Axis} (h : s.axis a = unit a) (d : Direction) :
    (s.countAxis a d).rpq = if (unit a).refuses d then takeRefusal unit s.tick s.rpq a else s.rpq := by
  rw [s.countAxis_eq, ← h]
  simp only [takeRefusal, h]

/-- Counts of different axes change the axes and the Report Queue alone, which takes the reports of the refusals in their order. -/
theorem State.countEach_eq (unit : Axis → AxisUnit) {l : List (Axis × Direction)} (hl : (l.map Prod.fst).Nodup) {s : State}
    (hunit : ∀ p ∈ l, s.axis p.1 = unit p.1) :
    State.countEach l s =
      { s with axes := (State.countEach l s).axes, rpq := (refusals unit l).foldl (takeRefusal unit s.tick) s.rpq } := by
  induction l generalizing s with
  | nil => rfl
  | cons p l ih =>
    rw [List.map_cons, List.nodup_cons] at hl
    have hrest : ∀ x ∈ l, (s.countAxis p.1 p.2).axis x.1 = unit x.1 := by
      intro x hx
      rw [State.countAxis_other (fun h => hl.1 (List.mem_map.mpr ⟨x, hx, h⟩)), hunit x (List.mem_cons_of_mem p hx)]
    have hfirst : s.axis p.1 = unit p.1 := hunit p List.mem_cons_self
    have hqueue : (refusals unit l).foldl (takeRefusal unit (s.countAxis p.1 p.2).tick) (s.countAxis p.1 p.2).rpq =
        (refusals unit (p :: l)).foldl (takeRefusal unit s.tick) s.rpq := by
      rw [s.countAxis_tick, State.countAxis_rpq hfirst, refusals_cons]
      split <;> rfl
    refine (ih hl.2 hrest).trans ?_
    rw [hqueue]
    exact State.frame_trans (s.countAxis_frame_eq p.1 p.2) _ _

/-! ### A count with the chains it reaches is the counts of its list -/

theorem State.wrapOf_congr {s t : State} {a : Axis} (h : t.axis a = s.axis a) (d : Direction) : t.wrapOf a d = s.wrapOf a d := by
  rw [State.wrapOf, State.wrapOf, h]

theorem State.countsWrapsOf_congr {s t : State} (h : ∀ c, (t.axis c).config = (s.axis c).config) (a b : Axis) :
    t.countsWrapsOf a b = s.countsWrapsOf a b := by
  rw [State.countsWrapsOf, State.countsWrapsOf, h]

/-- The chains that several axes lead to, one axis after another. -/
theorem State.foldl_deliverCount {s : State} {depth : Nat} {w : Direction}
    (ih : ∀ (b : Axis) {t : State}, (∀ c, (t.axis c).config = (s.axis c).config) →
      (∀ c ∈ (s.countList depth b w).map Prod.fst, t.axis c = s.axis c) → ((s.countList depth b w).map Prod.fst).Nodup →
      State.deliverCount depth b w t = State.countEach (s.countList depth b w) t)
    (l : List Axis) {t : State} (hconfig : ∀ c, (t.axis c).config = (s.axis c).config)
    (hunit : ∀ c ∈ (l.flatMap fun b => s.countList depth b w).map Prod.fst, t.axis c = s.axis c)
    (hnodup : ((l.flatMap fun b => s.countList depth b w).map Prod.fst).Nodup) :
    l.foldl (fun st b => State.deliverCount depth b w st) t = State.countEach (l.flatMap fun b => s.countList depth b w) t := by
  induction l generalizing t with
  | nil => rfl
  | cons b l ihl =>
    rw [List.flatMap_cons, List.map_append] at hunit hnodup
    obtain ⟨hfirst, hrest, hdisjoint⟩ := List.nodup_append'.mp hnodup
    rw [List.foldl_cons, List.flatMap_cons, State.countEach_append,
      ih b hconfig (fun c hc => hunit c (List.mem_append_left _ hc)) hfirst]
    refine ihl (fun c => (State.countEach_config _ t c).trans (hconfig c)) (fun c hc => ?_) hrest
    rw [State.countEach_other fun h => hdisjoint h hc]
    exact hunit c (List.mem_append_right _ hc)

/-- A count with every count it brings about is the counts of its list, each axis being counted once (R11, R14). -/
theorem State.deliverCount_eq {s : State} (depth : Nat) (a : Axis) (d : Direction) {t : State}
    (hconfig : ∀ c, (t.axis c).config = (s.axis c).config) (hunit : ∀ c ∈ (s.countList depth a d).map Prod.fst, t.axis c = s.axis c)
    (hnodup : ((s.countList depth a d).map Prod.fst).Nodup) :
    State.deliverCount depth a d t = State.countEach (s.countList depth a d) t := by
  induction depth generalizing a d t with
  | zero => rfl
  | succ depth ih =>
    have hself : t.axis a = s.axis a := hunit a (List.mem_map.mpr ⟨_, State.mem_countList_self depth a d, rfl⟩)
    cases hw : s.wrapOf a d with
    | none =>
      rw [State.deliverCount, State.wrapOf_congr hself, hw, State.countList_none hw]
      rfl
    | some w =>
      rw [State.countList_wrap hw, List.map_cons] at hunit hnodup
      rw [State.deliverCount, State.wrapOf_congr hself, hw, State.countList_wrap hw]
      simp only [State.countsWrapsOf_congr hconfig]
      refine State.foldl_deliverCount (fun b => ih b w) _ (fun c => (t.countAxis_config a c d).trans (hconfig c)) (fun c hc => ?_)
        (List.nodup_cons.mp hnodup).2
      have hne : c ≠ a := by
        rintro rfl
        exact (List.nodup_cons.mp hnodup).1 hc
      rw [State.countAxis_other hne]
      exact hunit c (List.mem_cons_of_mem _ hc)

theorem State.acyclic.count_eq {s : State} (hs : s.acyclic) (a : Axis) (d : Direction) :
    s.count a d = State.countEach (s.countList 8 a d) s :=
  State.deliverCount_eq 8 a d (fun _ => rfl) (fun _ _ => rfl) (hs.countList_nodup 8 a d)

end Sys2Proof.Machine
end

section
/-! Which axes a count reaches, and the whole of what it brings about (O10). -/

namespace Sys2Proof.Machine

/-! ### Wraps -/

/-- A count is a wrap at the end of a ROTARY range (R14). -/
theorem AxisConfig.countTo_wrap (c : AxisConfig) (p : Int) (d : Direction) :
    (∃ q, c.countTo p d = some (q, true)) ↔ c.kind = .rotary ∧ p = (match d with | .up => (c.modulus : Int) - 1 | .down => 0) := by
  cases hk : c.kind with
  | linear =>
    refine ⟨fun ⟨q, hq⟩ => ?_, fun h => nomatch h.1⟩
    cases d <;> simp only [AxisConfig.countTo, hk] at hq <;> split at hq <;> cases hq
  | rotary =>
    cases d with
    | up =>
      simp only [AxisConfig.countTo, hk, true_and]
      by_cases h : p = c.modulus - 1 <;> simp [h]
    | down =>
      simp only [AxisConfig.countTo, hk, true_and]
      by_cases h : p = 0 <;> simp [h]

theorem State.wrapOf_eq_some (s : State) (a : Axis) (d e : Direction) :
    s.wrapOf a d = some e ↔ (s.axis a).config.directed d = e ∧ (s.axis a).config.kind = .rotary ∧
      (s.axis a).pos = (match e with | .up => ((s.axis a).config.modulus : Int) - 1 | .down => 0) := by
  have hwrap : s.wrapOf a d = some e ↔ (s.axis a).config.directed d = e ∧
      ∃ q, (s.axis a).config.countTo (s.axis a).pos ((s.axis a).config.directed d) = some (q, true) := by
    unfold State.wrapOf
    dsimp only
    split
    next q hq => exact ⟨fun h => ⟨Option.some.inj h, q, hq⟩, fun h => congrArg some h.1⟩
    next hno => exact ⟨nofun, fun ⟨_, q, hq⟩ => absurd hq (hno q)⟩
  rw [hwrap, AxisConfig.countTo_wrap]
  exact and_congr_right fun h => by rw [h]

/-! ### The axes that a count reaches -/

/-- `got` names the axes that get a count when axis `a` gets one of direction `d`: the axis itself, and those that count a wrap. -/
structure State.Reaches (s : State) (a : Axis) (d : Direction) (got : Axis → Option Direction) : Prop where
  root : got a = some d
  source : s.sourceOf a = none
  step : ∀ b, b ≠ a → ∀ e, got b = some e ↔ ∃ x f, s.sourceOf b = some x ∧ got x = some f ∧ s.wrapOf x f = some e

section
variable {s : State} {a : Axis} {d : Direction} {got : Axis → Option Direction}

theorem State.Reaches.got_of_mem (h : s.Reaches a d got) {depth : Nat} {x b : Axis} {f e : Direction} (hx : got x = some f)
    (hb : (b, e) ∈ s.countList depth x f) : got b = some e := by
  induction depth generalizing x f with
  | zero => cases hb
  | succ depth ih =>
    cases hw : s.wrapOf x f with
    | none =>
      rw [State.countList_none hw, List.mem_singleton] at hb
      cases hb
      exact hx
    | some w =>
      rw [State.countList_wrap hw] at hb
      rcases List.mem_cons.mp hb with heq | hb
      · cases heq
        exact hx
      · obtain ⟨c, hc, hmem⟩ := List.mem_flatMap.mp hb
        have hsource := (s.countsWrapsOf_iff x c).mp (List.mem_filter.mp hc).2
        have hne : c ≠ a := by
          rintro rfl
          rw [h.source] at hsource
          cases hsource
        exact ih ((h.step c hne w).mpr ⟨x, f, hsource, hx, hw⟩) hmem

/-- An axis that gets a count at distance `k` stands in the list of depth `k + 1`. -/
theorem State.Reaches.mem_of_chain (h : s.Reaches a d got) {k : Nat} {b : Axis} {e : Direction} (hb : got b = some e)
    (hk : s.nextSource^[k] (some b) = some a) : (b, e) ∈ s.countList (k + 1) a d := by
  induction k generalizing b e with
  | zero =>
    obtain rfl : b = a := Option.some.inj hk
    obtain rfl : d = e := Option.some.inj (h.root.symm.trans hb)
    exact State.mem_countList_self 0 b d
  | succ k ih =>
    rw [Function.iterate_succ_apply] at hk
    have hne : b ≠ a := by
      rintro rfl
      change s.nextSource^[k] (s.sourceOf b) = some b at hk
      rw [h.source, s.nextSource_none] at hk
      cases hk
    obtain ⟨x, f, hsource, hx, hw⟩ := (h.step b hne e).mp hb
    change s.nextSource^[k] (s.sourceOf b) = some a at hk
    rw [hsource] at hk
    exact State.mem_countList_follow (ih hx hk) hw hsource

/-- The axes that get a count are those of the list. -/
theorem State.Reaches.mem_iff (h : s.Reaches a d got) (hs : s.acyclic) (b : Axis) (e : Direction) :
    (b, e) ∈ s.countList 8 a d ↔ got b = some e := by
  refine ⟨h.got_of_mem h.root, fun hb => ?_⟩
  have hmeets : s.sourceChainMeets b a := by
    refine hs.reaches (p := fun c => ∃ f, got c = some f) (fun c ⟨f, hf⟩ hne => ?_) ⟨e, hb⟩
    obtain ⟨x, g, hsource, hx, -⟩ := (h.step c hne f).mp hf
    exact ⟨x, hsource, g, hx⟩
  obtain ⟨k, hlt, hk⟩ := (s.chainMeets_iff_bounded a 8 b).mp ((s.chainMeets_iff a b).mpr hmeets)
  exact State.countList_mono_le (by omega) (h.mem_of_chain hb hk)

end

/-! ### An axis that gets a count -/

theorem AxisUnit.counted_of_moves {u : AxisUnit} {d : Direction} {q : Int} (h : u.config.moves u.pos (u.config.directed d) q) (t : Tick) :
    u.counted d t = u.takeStep q (u.config.directed d) t := by
  obtain ⟨w, hw⟩ := AxisConfig.countTo_of_moves h
  rw [AxisUnit.counted, hw]

theorem AxisUnit.counted_of_atLimit {u : AxisUnit} {d : Direction} (h : u.config.atLimit u.pos (u.config.directed d)) (t : Tick) :
    u.counted d t = { u with limitFlag := true } := by
  rw [AxisUnit.counted, AxisConfig.countTo_of_atLimit h]

/-- A position in its range is moved unless it stands at the LINEAR limit (R14, R15). -/
theorem AxisConfig.countTo_eq_none {c : AxisConfig} {p : Int} (hp : c.inRange p = true) (d : Direction) : c.countTo p d = none ↔ c.atLimit p d := by
  refine ⟨fun h => ?_, AxisConfig.countTo_of_atLimit⟩
  cases hk : c.kind with
  | linear =>
    rw [AxisConfig.inRange_linear hk] at hp
    refine ⟨hk, ?_⟩
    have hmax : Config.linearMax = 2147483647 := rfl
    have hmin : Config.linearMin = -2147483648 := rfl
    cases d with
    | up =>
      simp only [AxisConfig.countTo, hk, ite_eq_right_iff, reduceCtorEq, imp_false] at h
      exact .inl ⟨rfl, by omega⟩
    | down =>
      simp only [AxisConfig.countTo, hk, ite_eq_right_iff, reduceCtorEq, imp_false] at h
      exact .inr ⟨rfl, by omega⟩
  | rotary =>
    exfalso
    cases d <;> simp only [AxisConfig.countTo, hk] at h <;> split at h <;> cases h

/-- An axis refuses a count with a report at the LINEAR limit, with its flag clear (R15, R16). -/
theorem AxisUnit.refuses_iff {u : AxisUnit} (h : u.config.inRange u.pos = true) (d : Direction) :
    u.refuses d = true ↔ u.limitFlag = false ∧ u.config.atLimit u.pos (u.config.directed d) := by
  rw [AxisUnit.refuses, Bool.and_eq_true, Option.isNone_iff_eq_none, AxisConfig.countTo_eq_none h, Bool.not_eq_true']
  exact and_comm

theorem mem_refusals {unit : Axis → AxisUnit} {l : List (Axis × Direction)} {b : Axis} :
    b ∈ refusals unit l ↔ ∃ e, (b, e) ∈ l ∧ (unit b).refuses e = true := by
  rw [refusals, List.mem_map]
  refine ⟨fun ⟨p, hp, hb⟩ => ?_, fun ⟨e, he, hr⟩ => ⟨(b, e), List.mem_filter.mpr ⟨he, hr⟩, rfl⟩⟩
  obtain ⟨hmem, hr⟩ := List.mem_filter.mp hp
  subst hb
  exact ⟨p.2, hmem, hr⟩

theorem refusals_nodup {unit : Axis → AxisUnit} {l : List (Axis × Direction)} (h : (l.map Prod.fst).Nodup) : (refusals unit l).Nodup :=
  h.sublist (List.filter_sublist.map Prod.fst)

/-! ### An axis just written -/

section
variable {s : State} {a : Axis} {u : AxisUnit}

theorem State.sourceOf_setAxis (hu : u.config = (s.axis a).config) : (s.setAxis a u).sourceOf = s.sourceOf := by
  funext b
  rw [State.sourceOf, State.sourceOf, State.setAxis_config hu]

theorem State.acyclic.setAxis (h : s.acyclic) (hu : u.config = (s.axis a).config) : (s.setAxis a u).acyclic := by
  intro x b hb
  rw [State.sourceChainMeets, State.sourceOf_setAxis hu]
  rw [State.sourceOf_setAxis hu] at hb
  exact h x b hb

end

/-- An event that brings a count of direction `d` of axis `a`, which it leaves as `u` before the count. -/
def State.bringsCount (s : State) (a : Axis) (d : Direction) (u : AxisUnit) (i : Instr) : Prop :=
  (i = .timeCountExpiry a.val ∧ d = .up ∧ (s.axis a).timeEnd = some s.tick ∧
      u = { s.axis a with timeEnd := some (s.tick + BitVec.ofNat 48 (s.axis a).config.divisor) }) ∨
    (∃ (la lb lz : Level) (v : AxisUnit), i = .filteredSample a.val la lb lz ∧ v = (s.axis a).sample la lb lz ∧
      (s.axis a).filteredChange v = true ∧ (s.axis a).decode v = .count d ∧
      u = { v with
        refA := if v.config.mode = .quadX4 then v.a.filtered else v.refA
        refB := if v.config.mode = .quadX4 then v.b.filtered else v.refB })

section
variable {s : State} {a : Axis} {d : Direction} {u : AxisUnit} {i : Instr}

theorem State.bringsCount.unit (h : s.bringsCount a d u i) : u.config = (s.axis a).config ∧ u.pos = (s.axis a).pos := by
  rcases h with ⟨-, -, -, rfl⟩ | ⟨la, lb, lz, v, -, rfl, -, -, rfl⟩ <;> exact ⟨rfl, rfl⟩

/-- With no rising index edge the count is the whole event (R17). -/
theorem State.bringsCount.exec_eq (h : s.bringsCount a d u i) (hz : (s.axis a).z.filtered = .high ∨ u.z.filtered = .low) :
    exec i s = .next ((s.setAxis a u).count a d) := by
  rcases h with ⟨rfl, rfl, ht, rfl⟩ | ⟨la, lb, lz, v, rfl, hv, hchange, hd, hu⟩
  · rw [exec_timeCountExpiry, State.timeCount_eq, if_pos ht]
  · have hedge : ¬((s.axis a).z.filtered = .low ∧ v.z.filtered = .high) := by
      rintro ⟨hlow, hhigh⟩
      rw [hu] at hz
      rcases hz with hz | hz
      · rw [hz] at hlow
        cases hlow
      · rw [show v.z.filtered = .low from hz] at hhigh
        cases hhigh
    rw [← AxisUnit.keepReference_eq] at hu
    subst hv
    rw [exec_filteredSample, onAxis_val, State.filteredSample_of_change hchange, if_neg hedge, hd, ← hu]
    rfl

end

/-- Settles O10: the count is the counts of a list of different axes, which is the list of the axes named by `got`. -/
theorem countReachesChainsOfRevsAxes : Obligations.CountReachesChainsOfRevsAxes := by
  intro s a d u i unit turn got hlawful hacyclic hsource hi hunit hturn hroot hgot
  have hbrings : s.bringsCount a d u i := hi
  obtain ⟨hconfig, hpos⟩ := hbrings.unit
  obtain ⟨v, hv⟩ : ∃ v, v = s.setAxis a u := ⟨_, rfl⟩
  have haxis (b : Axis) : v.axis b = unit b := by rw [hv, State.setAxis_axis, hunit]
  have hrange (b : Axis) : (unit b).config.inRange (unit b).pos = true := by
    rw [hunit]
    split
    next hb =>
      rw [hconfig, hpos]
      exact (hlawful a).1
    next => exact (hlawful b).1
  have hdirected (b : Axis) (e : Direction) : (unit b).config.directed e = turn b e := (hturn b e).symm
  have hsources : v.sourceOf = s.sourceOf := by rw [hv, State.sourceOf_setAxis hconfig]
  have hv_acyclic : v.acyclic := hv ▸ State.acyclic.setAxis hacyclic hconfig
  have hreaches : v.Reaches a d got := by
    refine ⟨hroot, by rw [hsources, hsource], fun b hb e => (hgot b hb e).trans ?_⟩
    simp only [hsources, State.wrapOf_eq_some, haxis, hdirected] <;> rfl
  have hmem := hreaches.mem_iff hv_acyclic
  have hnodup := hv_acyclic.countList_nodup 8 a d
  have hcount : (s.setAxis a u).count a d = State.countEach (v.countList 8 a d) v := by rw [← hv, hv_acyclic.count_eq]
  have hframe := State.countEach_eq unit hnodup (s := v) fun p _ => haxis p.1
  have htick : v.tick = s.tick := by rw [hv]; rfl
  have hresult : (s.setAxis a u).count a d =
      { s with
        axes := (State.countEach (v.countList 8 a d) v).axes
        rpq := (refusals unit (v.countList 8 a d)).foldl (takeRefusal unit s.tick) s.rpq } := by
    rw [hcount, hframe, htick]
    subst hv
    rfl
  refine ⟨_, (State.countEach (v.countList 8 a d) v).axes, refusals unit (v.countList 8 a d), rfl, hresult, fun hz => ?_, refusals_nodup hnodup,
    fun b => ?_, fun b => ⟨fun hb => ?_, fun e hb => ⟨fun hl => ?_, fun q hq => ?_⟩⟩⟩
  · exact (hbrings.exec_eq hz).trans (congrArg Host.Outcome.next hresult)
  · rw [mem_refusals]
    simp only [hmem, AxisUnit.refuses_iff (hrange b), hdirected]
    constructor
    · rintro ⟨e, he, hflag, hl⟩
      exact ⟨hflag, e, he, hl⟩
    · rintro ⟨hflag, e, he, hl⟩
      exact ⟨e, he, hflag, hl⟩
  · have hno : b ∉ (v.countList 8 a d).map Prod.fst := by
      rintro hb'
      obtain ⟨⟨c, e⟩, hc, rfl⟩ := List.mem_map.mp hb'
      rw [(hmem c e).mp hc] at hb
      cases hb
    exact (State.countEach_other hno v).trans (haxis b)
  · refine (State.countEach_mem hnodup ((hmem b e).mpr hb) v).trans ?_
    rw [haxis, AxisUnit.counted_of_atLimit (by rw [hdirected]; exact hl)]
  · refine (State.countEach_mem hnodup ((hmem b e).mpr hb) v).trans ?_
    rw [haxis, AxisUnit.counted_of_moves (by rw [hdirected]; exact hq), AxisUnit.takeStep, AxisUnit.nextInterval_eq, hdirected, htick]

end Sys2Proof.Machine
end
